-- ==== Sys2Proof/Word.lean ====
section
/-! DEFINITION. The word types of the Keccak-f[1600] block (00_scope.md R7, R10): every value is unsigned, bit 0 is the
least significant bit. -/

namespace Sys2Proof

/-- One byte of the DIN or DOUT stream, and of the 200-byte state view (R10). -/
abbrev Byte := BitVec 8

/-- A 32-bit command word or status port value (R29, R73). -/
abbrev Word := BitVec 32

/-- One 64-bit lane (R7). -/
abbrev Lane := BitVec 64

/-- One 32-bit half-lane of the bit-interleaved form (R7, R170). -/
abbrev Half := BitVec 32

/-- The 25 lanes of the state, by linear index x + 5y (R12, R20). -/
abbrev Lanes := Vector Lane 25

/-- One 64-bit value for each column x (R120). -/
abbrev Columns := Vector Lane 5

/-- The 25 even (or the 25 odd) halves of the lanes (R178). -/
abbrev HalfLanes := Vector Half 25

/-- The interleaved raw array H[0..49] (R175). -/
abbrev HalfArray := Vector Half 50

end Sys2Proof
end

