-- ==== Sys2Proof/Machine/Bits.lean ====
section
/-! DEFINITION. Rotations, byte selection and little-endian assembly (00_scope.md R11, R13). -/

namespace Sys2Proof.Machine

/-- `ROTL_w(v, k)`: rotation left by `k mod w`, never a shift by the full width (R11, C5). -/
def rotl {w : Nat} (v : BitVec w) (k : Nat) : BitVec w :=
  if k % w = 0 then v else (v <<< (k % w)) ||| (v >>> (w - k % w))

/-- `byte_k(v) = v[8k+7 : 8k]` (R13). -/
def byteOf (v : Lane) (k : Nat) : Byte := v.extractLsb' (8 * k) 8

/-- `LE64(b0..b7)`: the first byte is the least significant (R13). -/
def le64 : List Byte → Lane
  | [] => 0
  | b :: bs => b.setWidth 64 ||| (le64 bs <<< 8)

/-- The `len` bytes of a lane from byte `off` up, first byte first (R86). -/
def bytesOf (v : Lane) (off len : Nat) : List Byte := (List.range len).map fun k => byteOf v (off + k)

/-- The loop of XORB (42_state_access.md R141): each byte of the list is XORed in, the first at byte `off`. -/
def xorBytes (v : Lane) (off : Nat) : List Byte → Lane
  | [] => v
  | d :: ds => xorBytes (v ^^^ (d.setWidth 64 <<< (8 * off))) (off + 1) ds

/-- The word whose bit `j` is `f j`, for `j < w` (used where a rule gives a value bit by bit, R170, R171). -/
def ofBits (w : Nat) (f : Nat → Bool) : BitVec w :=
  BitVec.ofNat w ((List.range w).foldr (fun j acc => (f j).toNat * 2 ^ j + acc) 0)

end Sys2Proof.Machine
end

