-- ==== Sys2Proof/Machine/Constants.lean ====
section
/-! DEFINITION. The two constant-derivation algorithms and the tables they give (40_constants.md R100 to R106). -/

namespace Sys2Proof.Machine

/-- One LFSR step: the output is bit 0 before the advance; the feedback byte 0x71 is applied on carry out of bit 7 (R100). -/
def lfsrStep (l : Byte) : Bool × Byte :=
  (l.getLsbD 0, if l.getLsbD 7 then (l <<< 1) ^^^ 0x71 else l <<< 1)

/-- The round constant built so far and the register, after the step for bit position `2^j - 1` (R101). -/
def rcBit (acc : Lane × Byte) (j : Nat) : Lane × Byte :=
  let (out, l) := lfsrStep acc.2
  (if out then acc.1 ||| (1 <<< (2 ^ j - 1)) else acc.1, l)

/-- The seven LFSR steps of one round: its constant, and the register after it (R101, R103). -/
def rcRound (l : Byte) : Lane × Byte := (List.range 7).foldl rcBit (0, l)

/-- The LFSR register at the start of round `r`, from the seed 0x01 (R101, R103). -/
def lfsrAt : Nat → Byte
  | 0 => 0x01
  | r + 1 => (rcRound (lfsrAt r)).2

/-- RC[r] as rule R101 derives it. -/
def rcDerived (r : Nat) : Lane := (rcRound (lfsrAt r)).1

/-- The round-constant table as R102 prints it: its row r holds RC[r] and RC[r + 12]. The ROM of `P_RC_SOURCE = ROM`
(R103). -/
def rcRows : Vector (Lane × Lane) 12 :=
  #v[(0x0000000000000001, 0x000000008000808B),
     (0x0000000000008082, 0x800000000000008B),
     (0x800000000000808A, 0x8000000000008089),
     (0x8000000080008000, 0x8000000000008003),
     (0x000000000000808B, 0x8000000000008002),
     (0x0000000080000001, 0x8000000000000080),
     (0x8000000080008081, 0x000000000000800A),
     (0x8000000000008009, 0x800000008000000A),
     (0x000000000000008A, 0x8000000080008081),
     (0x0000000000000088, 0x8000000000008080),
     (0x0000000080008009, 0x0000000080000001),
     (0x000000008000000A, 0x8000000080008008)]

/-- `RC[r]`, for `r < 24` (R31, R102): the left column of the table up to r = 11, the right column from r = 12. -/
def rc (r : Nat) : Lane :=
  if r < 12 then ((rcRows[r]?).getD (0, 0)).1 else ((rcRows[r - 12]?).getD (0, 0)).2

/-- `idx(x, y) = (x mod 5) + 5 (y mod 5)` (00_scope.md R12). -/
def idx (x y : Nat) : Fin 25 := ⟨x % 5 + 5 * (y % 5), by omega⟩

/-- The map (x, y) → (y, 2x + 3y mod 5) of the rotation orbit and of pi (R104, R122). -/
def orbitStep (p : Nat × Nat) : Nat × Nat := (p.2, (2 * p.1 + 3 * p.2) % 5)

/-- The position visited at step `t` of the orbit that starts at (1, 0) (R104). -/
def orbitAt : Nat → Nat × Nat
  | 0 => (1, 0)
  | t + 1 => orbitStep (orbitAt t)

/-- The offset assigned at step `t` (R104). -/
def orbitOffset (t : Nat) : Nat := ((t + 1) * (t + 2) / 2) % 64

/-- The table rule R104 fills: offset 0 at (0,0), then 24 assignments along the orbit. -/
def rhoDerived : Vector Nat 25 :=
  (List.range 24).foldl (fun tbl t => tbl.set (idx (orbitAt t).1 (orbitAt t).2) (orbitOffset t))
    (Vector.replicate 25 0)

/-- The rotation-offset table of R105, by linear index. -/
def rhoTable : Vector Nat 25 :=
  #v[0, 1, 62, 28, 27, 36, 44, 6, 55, 20, 3, 10, 43, 25, 39, 41, 45, 15, 21, 8, 18, 2, 61, 56, 14]

/-- `RHO[i]`, for `i < 25` (R31, R105). -/
def rhoOffset (i : Nat) : Nat := (rhoTable[i]?).getD 0

end Sys2Proof.Machine
end

