-- ==== Sys2Proof/Machine/Keccak.lean ====
section
/-! DEFINITION. The five step functions, the round and Keccak-f[1600] on the logical state (41_permutation.md R120 to
R127). Each step builds all of its outputs from its input, so no lane is read after it was overwritten (R129). chi and pi
are written for lanes of any width: the interleaved form applies them to halves (43_interleave.md R178). -/

namespace Sys2Proof.Machine

/-- Column parities: `C[x]` is the XOR of the five lanes of column x (R120). -/
def thetaC (a : Lanes) : Columns :=
  Vector.ofFn fun x : Fin 5 => a[idx x 0] ^^^ a[idx x 1] ^^^ a[idx x 2] ^^^ a[idx x 3] ^^^ a[idx x 4]

/-- `D[x] = ROTL64(C[x+1], 1) ^ C[x+4]` (R120). -/
def thetaD (col : Columns) : Columns := Vector.ofFn fun x : Fin 5 => rotl col[x + 1] 1 ^^^ col[x + 4]

/-- `D[x]` XORed into every lane of column x (R120). -/
def thetaApply (a : Lanes) (d : Columns) : Lanes :=
  Vector.ofFn fun i : Fin 25 => a[i] ^^^ d[Fin.ofNat 5 i.val]

/-- theta (R120). -/
def theta (a : Lanes) : Lanes := thetaApply a (thetaD (thetaC a))

/-- rho: lane i rotates by RHO[i] (R121). -/
def rho (a : Lanes) : Lanes := Vector.ofFn fun i : Fin 25 => rotl a[i] (rhoOffset i)

/-- `PI_SRC[j]`: the position whose lane pi moves to j. For j = (x', y') it is (x' + 3y', x'), the inverse of
(x, y) → (y, 2x + 3y) modulo 5 (R122). -/
def piSrc (j : Fin 25) : Fin 25 := idx (j.val % 5 + 3 * (j.val / 5)) (j.val % 5)

/-- pi: the lane at (x, y) moves to (y, 2x + 3y) (R122). -/
def pi {α : Type} (a : Vector α 25) : Vector α 25 := Vector.ofFn fun j : Fin 25 => a[piSrc j]

/-- chi: each lane is XORed with NOT of the next lane of its row AND the one after that (R123). -/
def chi {w : Nat} (a : Vector (BitVec w) 25) : Vector (BitVec w) 25 :=
  Vector.ofFn fun i : Fin 25 =>
    a[i] ^^^ (~~~ a[idx (i.val % 5 + 1) (i.val / 5)] &&& a[idx (i.val % 5 + 2) (i.val / 5)])

/-- A value XORed into lane 0 only (R124). -/
def xorLane0 (a : Lanes) (k : Lane) : Lanes := Vector.ofFn fun i : Fin 25 => if i = 0 then a[i] ^^^ k else a[i]

/-- iota: round r XORs RC[r] into lane 0 (R124). -/
def iota (a : Lanes) (r : Nat) : Lanes := xorLane0 a (rc r)

/-- Round r: theta, rho, pi, chi, iota, in that order (R125). -/
def keccakRound (a : Lanes) (r : Nat) : Lanes := iota (chi (pi (rho (theta a)))) r

/-- Rounds 0 to n - 1, in increasing order (R126). -/
def keccakRounds (a : Lanes) : Nat → Lanes
  | 0 => a
  | n + 1 => keccakRound (keccakRounds a n) n

/-- Keccak-f[1600]: all 24 rounds (R126, R127). -/
@[irreducible] def keccakF (a : Lanes) : Lanes := keccakRounds a 24

end Sys2Proof.Machine
end

