-- ==== Sys2Proof/Config.lean ====
section
/-! DEFINITION. What the build fixes (00_scope.md R8) and the values the spec leaves open after a reset edge
(10_state.md R35). Every constant here is opaque: no proof can see its value, so what is proved holds for every value. -/

namespace Sys2Proof

/-- `P_RC_SOURCE` (R8, R103): a hard-wired table, or the LFSR stepped during the permutation. -/
inductive RcSource where
  | rom
  | lfsr
  deriving DecidableEq, Repr, Inhabited

/-- `P_ROUNDS_PER_CYCLE`: the eight legal values of R8. -/
inductive RoundsPerCycle where
  | one
  | two
  | three
  | four
  | six
  | eight
  | twelve
  | twentyFour
  deriving DecidableEq, Repr, Inhabited

/-- The number of rounds computed per cycle (R8). -/
def RoundsPerCycle.count : RoundsPerCycle → Nat
  | .one => 1
  | .two => 2
  | .three => 3
  | .four => 4
  | .six => 6
  | .eight => 8
  | .twelve => 12
  | .twentyFour => 24

/-- The build-time parameters of the block (R8). -/
structure BuildParams where
  /-- `P_INTERLEAVE` -/
  interleave : Bool
  /-- `P_COMPLEMENT` -/
  complement : Bool
  /-- `P_ROUNDS_PER_CYCLE` -/
  roundsPerCycle : RoundsPerCycle
  /-- `P_RC_SOURCE` -/
  rcSource : RcSource
  deriving DecidableEq, Repr, Inhabited

/-- The parameters this block was built with (R8): any legal choice (log entry 11). -/
opaque Config.build : BuildParams

/-- FREE VALUE: lane `i` of register group `g` after the `n`-th reset edge, which R35 and R240 leave unspecified
(groups: 0 the lanes A, 1 the pi staging copy, 2 the columns C, 3 the columns D). Log entry 8. -/
opaque Config.freeLane : (n g i : Nat) → Lane

/-- FREE VALUE: the LFSR register after the `n`-th reset edge (R35). Log entry 8. -/
opaque Config.freeLfsr : (n : Nat) → Byte

/-- FREE VALUE: the round counter after the `n`-th reset edge (R35); a counter 0..23 (R34). Log entry 8. -/
opaque Config.freeRound : (n : Nat) → Fin 24

/-- FREE VALUE: the latched command word after the `n`-th reset edge (R34 names it, R35 gives no value). Log entry 8. -/
opaque Config.freeCmdWord : (n : Nat) → Word

end Sys2Proof
end

