-- ==== Sys2Proof/Syntax.lean ====
section
/-! DEFINITION. The eleven commands of the block, one constructor for each row of spec/opcode_table.json
(30_encoding.md R80), and the pseudo-instructions of R90. Operands are the unsigned numbers the fields hold (R81). -/

namespace Sys2Proof

/-- A command of the block (R80). Operand names are those of the command rules. -/
inductive Instr where
  /-- CINIT, the source's `Initialize()` (R107). -/
  | cinit
  /-- SINIT, the source's `StateInitialize` (R140). -/
  | sinit
  /-- XORB lane, off, len (R141). -/
  | xorb (lane off len : Nat)
  /-- XORL n (R142). -/
  | xorl (n : Nat)
  /-- CBIT p (R143). -/
  | cbit (p : Nat)
  /-- PERM (R128). -/
  | perm
  /-- EXTB lane, off, len (R144). -/
  | extb (lane off len : Nat)
  /-- EXTL n (R145). -/
  | extl (n : Nat)
  /-- XPE nin, nout (R146). -/
  | xpe (nin nout : Nat)
  /-- RDRC r (R108). -/
  | rdrc (r : Nat)
  /-- RDRHO i (R109). -/
  | rdrho (i : Nat)
  deriving DecidableEq, Repr

/-- The pseudo-instructions of R90: other names of core commands' words. -/
inductive Pseudo where
  | nop
  | permext (n : Nat)
  | xorperm (n : Nat)
  deriving DecidableEq, Repr

end Sys2Proof
end

