-- ==== Sys2Proof/Machine/State.lean ====
section
/-! DEFINITION. The state of the block as plain data (10_state.md R20 to R35), the reasons a step can stop, and the state
right after reset (R35, 70_reset_and_hazards.md R240). -/

namespace Sys2Proof.Machine

/-- The error codes of 60_exceptions.md R211; codes 9 to 15 are never reported, so they have no constructor. -/
inductive ErrorCode where
  | none
  | illegalOpcode
  | reservedBits
  | laneRange
  | byteRange
  | countRange
  | bitRange
  | indexRange
  | notInit
  deriving DecidableEq, Repr

/-- The command phases of 30_encoding.md R72. -/
inductive Phase where
  | idle
  | din
  | exec
  | dout
  | halt
  deriving DecidableEq, Repr

/-- The hidden working registers of the permutation engine (10_state.md R34). No command's result depends on them. -/
structure Engine where
  /-- The round counter, 0..23. -/
  round : Nat
  /-- The pi staging copy of the 25 lanes (41_permutation.md R129). -/
  stage : Lanes
  /-- The theta column parities C[0..4] (R120). -/
  colC : Columns
  /-- The theta values D[0..4] (R120). -/
  colD : Columns
  /-- The LFSR register, used when `P_RC_SOURCE = LFSR` (40_constants.md R103). -/
  lfsr : Byte
  deriving DecidableEq, Repr

/-- The state of the block, and the host's ends of its three channels. -/
structure State where
  /-- The logical state A (R20). -/
  lanes : Lanes
  /-- INIT: the logical state holds a value (R24). -/
  init : Bool
  /-- ERR: a command has been rejected (R25). -/
  err : Bool
  /-- ERR_CODE (R26). -/
  errCode : ErrorCode
  /-- ERR_CMD: the command word that set ERR (R27). -/
  errCmd : Word
  /-- BUSY: a command is in progress (R28). -/
  busy : Bool
  /-- The command phase (R34, R72). -/
  phase : Phase
  /-- The latched command word (R34). -/
  cmdWord : Word
  /-- The DIN bytes taken for the command in progress; its length is the DIN counter (R34, R72). They stay until the command
  finishes (DESIGN CHOICE, log entry 23). -/
  dinBuf : List Byte
  /-- The DOUT bytes of the command in progress still to be taken; its length is the DOUT counter, which so counts down
  (R34, R72; DESIGN CHOICE, log entry 23). -/
  doutPend : List Byte
  /-- The hidden working registers (R34). -/
  engine : Engine
  /-- THE MODEL'S OWN FIELD: how many reset edges have drawn free values (log entry 8). -/
  draws : Nat
  /-- The host's command words, offered in this order and not yet accepted (R22, R70). -/
  cmdIn : List Word
  /-- The host's DIN bytes, offered in this order and not yet taken (R70, R246). -/
  dinIn : List Byte
  /-- The DOUT bytes the host has taken, oldest first (R70, R253). -/
  doutOut : List Byte
  deriving DecidableEq, Repr

/-- Why the machine stops. -/
inductive Fault where
  /-- Raised by the step, and by every command's meaning, when the block is halted: while ERR = 1 no command has a step
  (60_exceptions.md R214). Safe: the hardware accepts nothing either. -/
  | halted
  deriving DecidableEq, Repr

/-- Why the model gives an instruction no meaning. -/
inductive Refusal where
  /-- Raised by an arm of `exec` whose instruction has no meaning yet. Safe. No arm of this model raises it. -/
  | notModelled (mnemonic : String)
  deriving DecidableEq, Repr

/-- The working registers at `State.reset`: R35 leaves them unspecified, and zero is the model's choice
(DESIGN CHOICE, log entry 7). -/
def Engine.reset : Engine where
  round := 0
  stage := Vector.replicate 25 0
  colC := Vector.replicate 5 0
  colD := Vector.replicate 5 0
  lfsr := 0

/-- The block right after reset (R35, R240, R242), with nothing offered by the host. `lanes` is unspecified there and zero
is the model's choice (DESIGN CHOICE, log entry 6), as is `cmdWord` (log entry 7). -/
def State.reset : State where
  lanes := Vector.replicate 25 0
  init := false
  err := false
  errCode := .none
  errCmd := 0
  busy := false
  phase := .idle
  cmdWord := 0
  dinBuf := []
  doutPend := []
  engine := Engine.reset
  draws := 0
  cmdIn := []
  dinIn := []
  doutOut := []

end Sys2Proof.Machine
end

