-- ==== Sys2Proof/Machine/EngineOps.lean ====
section
/-! DEFINITION. The permutation engine's working registers, round by round (10_state.md R34, 40_constants.md R103,
41_permutation.md R127, R129). The registers' arrangement is the model's (log entry 9); what the 24 rounds compute is
R126. -/

namespace Sys2Proof.Machine

/-- The engine takes the lanes to permute; under `P_RC_SOURCE = LFSR` it reloads the LFSR with 0x01 (R103). -/
def Engine.load (src : RcSource) (a : Lanes) (e : Engine) : Engine :=
  { e with
    round := 0
    stage := a
    lfsr := match src with
      | .rom => e.lfsr
      | .lfsr => 0x01 }

/-- The round's constant and the LFSR register after the round (R103). -/
def Engine.roundConstant (src : RcSource) (e : Engine) : Lane × Byte :=
  match src with
  | .rom => (rc e.round, e.lfsr)
  | .lfsr => rcRound e.lfsr

/-- One round: the parities and D are formed from the staged lanes, then all 25 lanes are replaced at once (R125, R129). -/
def Engine.stepRound (src : RcSource) (e : Engine) : Engine where
  round := e.round + 1
  stage := xorLane0 (chi (pi (rho (thetaApply e.stage (thetaD (thetaC e.stage)))))) (e.roundConstant src).1
  colC := thetaC e.stage
  colD := thetaD (thetaC e.stage)
  lfsr := (e.roundConstant src).2

/-- `n` rounds. -/
def Engine.runRounds (src : RcSource) : Nat → Engine → Engine
  | 0, e => e
  | n + 1, e => Engine.runRounds src n (e.stepRound src)

/-- The permutation is over: the counter returns to 0. -/
def Engine.stop (e : Engine) : Engine := { e with round := 0 }

/-- The working registers after a whole permutation of `a` (R127). -/
@[irreducible] def Engine.permute (src : RcSource) (a : Lanes) (e : Engine) : Engine :=
  (Engine.runRounds src 24 (e.load src a)).stop

end Sys2Proof.Machine
end

