-- ==== Sys2Proof/Machine/Flags.lean ====
section
/-! DEFINITION. The status ports (10_state.md R26, R27, R29). The block has no condition codes: no command sets a flag as a
side effect (R30). -/

namespace Sys2Proof.Machine

/-- The four bits of an error code (60_exceptions.md R211). -/
def ErrorCode.bits : ErrorCode → BitVec 4
  | .none => 0
  | .illegalOpcode => 1
  | .reservedBits => 2
  | .laneRange => 3
  | .byteRange => 4
  | .countRange => 5
  | .bitRange => 6
  | .indexRange => 7
  | .notInit => 8

/-- The `status` port: BUSY in bit 0, INIT in bit 1, ERR in bit 2, ERR_CODE in bits 7:4, every other bit 0 (R29). -/
def State.statusWord (s : State) : Word :=
  0#24 ++ s.errCode.bits ++ 0#1 ++ BitVec.ofBool s.err ++ BitVec.ofBool s.init ++ BitVec.ofBool s.busy

end Sys2Proof.Machine
end

