-- ==== Sys2Proof/WellFormed.lean ====
section
/-! DEFINITION. The assembler's check (30_encoding.md R89): every operand fits its field. An operand that fits and is out
of its legal range is well-formed: its word decodes, and the block rejects it at run time (R83). -/

namespace Sys2Proof

/-- Every operand fits its field's width: LANE, CNT, OCNT and IDX below 32, OFF below 8, LEN below 16, POS below 2048 (R89). -/
def Instr.wellFormed : Instr → Bool
  | .cinit => true
  | .sinit => true
  | .xorb lane off len => decide (lane < 32) && decide (off < 8) && decide (len < 16)
  | .xorl n => decide (n < 32)
  | .cbit p => decide (p < 2048)
  | .perm => true
  | .extb lane off len => decide (lane < 32) && decide (off < 8) && decide (len < 16)
  | .extl n => decide (n < 32)
  | .xpe nin nout => decide (nin < 32) && decide (nout < 32)
  | .rdrc r => decide (r < 32)
  | .rdrho i => decide (i < 32)

/-- The command has an encoding (R89). -/
abbrev Instr.WellFormed (i : Instr) : Prop := i.wellFormed = true

end Sys2Proof
end

