-- ==== Sys2Proof/Decode.lean ====
section
/-! DEFINITION. Decoding and encoding of the 32-bit command word (30_encoding.md R73 to R83, R88 to R90). The word is a
parallel port value and has no byte order (20_memory.md R53). -/

namespace Sys2Proof

/-- Why a word does not decode (R82). -/
inductive DecodeError where
  /-- OP is 0x0 or 0xC to 0xF. -/
  | illegalOpcode
  /-- OP is legal and a reserved bit of its format is 1. -/
  | reservedBits
  deriving DecidableEq, Repr

/-- The unsigned number in the `width` bits of `w` from bit `lsb` up (R10, R81). -/
def field (w : Word) (lsb width : Nat) : Nat := (w.extractLsb' lsb width).toNat

/-- `i` when the reserved bits from bit `lsb` up are all 0, else RESERVED_BITS (R82). -/
def unreserved (w : Word) (lsb : Nat) (i : Instr) : Except DecodeError Instr :=
  if field w lsb (32 - lsb) = 0 then .ok i else .error .reservedBits

/-- The command a word stands for (R74 to R80), or why there is none (R82). -/
def decode (w : Word) : Except DecodeError Instr :=
  match field w 0 4 with
  | 0x1 => unreserved w 4 .cinit
  | 0x2 => unreserved w 4 .sinit
  | 0x3 => unreserved w 16 (.xorb (field w 4 5) (field w 9 3) (field w 12 4))
  | 0x4 => unreserved w 9 (.xorl (field w 4 5))
  | 0x5 => unreserved w 15 (.cbit (field w 4 11))
  | 0x6 => unreserved w 4 .perm
  | 0x7 => unreserved w 16 (.extb (field w 4 5) (field w 9 3) (field w 12 4))
  | 0x8 => unreserved w 9 (.extl (field w 4 5))
  | 0x9 => unreserved w 14 (.xpe (field w 4 5) (field w 9 5))
  | 0xA => unreserved w 9 (.rdrc (field w 4 5))
  | 0xB => unreserved w 9 (.rdrho (field w 4 5))
  | _ => .error .illegalOpcode

/-- An operand moved to its field: `field << lsb` (R89). -/
def place (n lsb : Nat) : Word := BitVec.ofNat 32 n <<< lsb

/-- The word of a well-formed command: `OP | field << lsb` (R74 to R80, R89). -/
def encode : Instr → Word
  | .cinit => 0x1
  | .sinit => 0x2
  | .xorb lane off len => 0x3 ||| place lane 4 ||| place off 9 ||| place len 12
  | .xorl n => 0x4 ||| place n 4
  | .cbit p => 0x5 ||| place p 4
  | .perm => 0x6
  | .extb lane off len => 0x7 ||| place lane 4 ||| place off 9 ||| place len 12
  | .extl n => 0x8 ||| place n 4
  | .xpe nin nout => 0x9 ||| place nin 4 ||| place nout 9
  | .rdrc r => 0xA ||| place r 4
  | .rdrho i => 0xB ||| place i 4

/-- The assembler: it refuses an operand that does not fit its field (R89). -/
def assemble (i : Instr) : Option Word := if i.wellFormed then some (encode i) else none

/-- The expansion of a pseudo-instruction (R90). -/
def expand : Pseudo → Instr
  | .nop => .cinit
  | .permext n => .xpe 0 n
  | .xorperm n => .xpe n 0

/-- The match and mask of each command's words, in the order of spec/opcode_table.json (R80). -/
def opcodeTable : List (Word × Word) :=
  [(0x00000001, 0xFFFFFFFF), (0x00000002, 0xFFFFFFFF), (0x00000003, 0xFFFF000F), (0x00000004, 0xFFFFFE0F),
   (0x00000005, 0xFFFF800F), (0x00000006, 0xFFFFFFFF), (0x00000007, 0xFFFF000F), (0x00000008, 0xFFFFFE0F),
   (0x00000009, 0xFFFFC00F), (0x0000000A, 0xFFFFFE0F), (0x0000000B, 0xFFFFFE0F)]

/-- The row of the opcode table a command belongs to (R80). -/
def tableRow : Instr → Nat
  | .cinit => 0
  | .sinit => 1
  | .xorb _ _ _ => 2
  | .xorl _ => 3
  | .cbit _ => 4
  | .perm => 5
  | .extb _ _ _ => 6
  | .extl _ => 7
  | .xpe _ _ => 8
  | .rdrc _ => 9
  | .rdrho _ => 10

/-- A word matches a row of the opcode table. -/
def matchesRow (w : Word) (row : Word × Word) : Bool := w &&& row.2 == row.1

/-- The command read from an instruction whose bits are `w`, of which the table gives the low `nbits`; every command is
one 32-bit word (R88). -/
def decodeTableWord (nbits w : Nat) : Option Instr :=
  match decode (BitVec.ofNat 32 (w % 2 ^ nbits)) with
  | .ok i => some i
  | .error _ => none

end Sys2Proof
end

