-- ==== Sys2Proof/Machine/Operands.lean ====
section
/-! DEFINITION. What a command's operands decide before anything happens: the check made on acceptance (60_exceptions.md
R211, R212, R215) and the numbers of DIN and DOUT bytes (30_encoding.md R84). -/

namespace Sys2Proof.Machine

/-- The range check of a decoded command (R212): the first violated range in the order of R215, or `none`. -/
def rangeCheck : Instr → ErrorCode
  | .cinit => .none
  | .sinit => .none
  | .xorb lane off len => if lane > 24 then .laneRange else if off + len > 8 then .byteRange else .none
  | .xorl n => if n > 25 then .countRange else .none
  | .cbit p => if p > 1599 then .bitRange else .none
  | .perm => .none
  | .extb lane off len => if lane > 24 then .laneRange else if off + len > 8 then .byteRange else .none
  | .extl n => if n > 25 then .countRange else .none
  | .xpe nin nout => if nin > 25 ∨ nout > 25 then .countRange else .none
  | .rdrc r => if r > 23 then .indexRange else .none
  | .rdrho i => if i > 24 then .indexRange else .none

/-- The commands that read or write A, and so need INIT = 1 (R212, R24). -/
def needsInit : Instr → Bool
  | .cinit => false
  | .sinit => false
  | .xorb _ _ _ => true
  | .xorl _ => true
  | .cbit _ => true
  | .perm => true
  | .extb _ _ _ => true
  | .extl _ => true
  | .xpe _ _ => true
  | .rdrc _ => false
  | .rdrho _ => false

/-- The check of a decoded command, with INIT at acceptance: range errors before the state check (R212, R215). -/
def check (i : Instr) (init : Bool) : ErrorCode :=
  if rangeCheck i = .none then (if needsInit i && !init then .notInit else .none) else rangeCheck i

/-- The error code a word that does not decode is rejected with (R82, R211). -/
def decodeErrorCode : DecodeError → ErrorCode
  | .illegalOpcode => .illegalOpcode
  | .reservedBits => .reservedBits

/-- The check of a whole word: decoding errors come first (R212, R215). -/
def checkWord (w : Word) (init : Bool) : ErrorCode :=
  match decode w with
  | .ok i => check i init
  | .error e => decodeErrorCode e

/-- The reserved bits of the format an opcode selects (R212, R74 to R79). -/
def reservedMask (op : Nat) : Word :=
  if op = 0x1 ∨ op = 0x2 ∨ op = 0x6 then 0xFFFFFFF0
  else if op = 0x3 ∨ op = 0x7 then 0xFFFF0000
  else if op = 0x5 then 0xFFFF8000
  else if op = 0x9 then 0xFFFFC000
  else 0xFFFFFE00

/-- `Check(w)` as R212 writes it out, on the bits of the word: the reference `checkWord` is held against. -/
def checkBits (w : Word) (init : Bool) : ErrorCode :=
  let op := field w 0 4
  if op = 0x0 ∨ op ≥ 0xC then .illegalOpcode
  else if w &&& reservedMask op ≠ 0 then .reservedBits
  else if (op = 0x3 ∨ op = 0x7) ∧ field w 4 5 > 24 then .laneRange
  else if (op = 0x3 ∨ op = 0x7) ∧ field w 9 3 + field w 12 4 > 8 then .byteRange
  else if (op = 0x4 ∨ op = 0x8) ∧ field w 4 5 > 25 then .countRange
  else if op = 0x9 ∧ (field w 4 5 > 25 ∨ field w 9 5 > 25) then .countRange
  else if op = 0x5 ∧ field w 4 11 > 1599 then .bitRange
  else if op = 0xA ∧ field w 4 5 > 23 then .indexRange
  else if op = 0xB ∧ field w 4 5 > 24 then .indexRange
  else if (op = 0x3 ∨ op = 0x4 ∨ op = 0x5 ∨ op = 0x6 ∨ op = 0x7 ∨ op = 0x8 ∨ op = 0x9) ∧ init = false then .notInit
  else .none

/-- `Nin`: how many DIN bytes the command takes (R84). -/
def nin : Instr → Nat
  | .cinit => 0
  | .sinit => 0
  | .xorb _ _ len => len
  | .xorl n => 8 * n
  | .cbit _ => 0
  | .perm => 0
  | .extb _ _ _ => 0
  | .extl _ => 0
  | .xpe n _ => 8 * n
  | .rdrc _ => 0
  | .rdrho _ => 0

/-- `Nout`: how many DOUT bytes the command gives (R84). -/
def nout : Instr → Nat
  | .cinit => 0
  | .sinit => 0
  | .xorb _ _ _ => 0
  | .xorl _ => 0
  | .cbit _ => 0
  | .perm => 0
  | .extb _ _ len => len
  | .extl n => 8 * n
  | .xpe _ n => 8 * n
  | .rdrc _ => 8
  | .rdrho _ => 1

end Sys2Proof.Machine
end

