-- ==== Sys2Proof/Machine/Ops.lean ====
section
/-! DEFINITION. The named operations every command is built from: the views of A (20_memory.md R51, R52), writing and
reading lanes, the error entry (60_exceptions.md R213), and performing one accepted command whole (20_memory.md R57, R60;
30_encoding.md R72). -/

namespace Sys2Proof.Machine

/-! ### The lane file and its byte and bit views -/

/-- Lane `i` of A, for `i < 25` (R20). -/
def laneAt (a : Lanes) (i : Nat) : Lane := (a[i]?).getD 0

/-- State byte `j`: byte `j mod 8` of lane `j div 8` (R51). -/
def stateByte (a : Lanes) (j : Nat) : Byte := byteOf (laneAt a (j / 8)) (j % 8)

/-- State bit `p`: bit `p mod 64` of lane `p div 64` (R52). -/
def stateBit (a : Lanes) (p : Nat) : Bool := (laneAt a (p / 64)).getLsbD (p % 64)

/-- The all-zero logical state (R140). -/
def zeroLanes : Lanes := Vector.replicate 25 0

/-- The lanes with lane `l` replaced by `v`. -/
def setLane (a : Lanes) (l : Nat) (v : Lane) : Lanes :=
  Vector.ofFn fun i : Fin 25 => if i.val = l then v else a[i]

/-- XOR of bytes into lane `l` from byte `off` up (R141). -/
def xorBytesInLane (a : Lanes) (l off : Nat) (data : List Byte) : Lanes :=
  setLane a l (xorBytes (laneAt a l) off data)

/-- XOR of `n` whole lanes into lanes 0..n-1, eight bytes a lane, little-endian (R142, R85). -/
def xorLanes (a : Lanes) (n : Nat) (data : List Byte) : Lanes :=
  Vector.ofFn fun i : Fin 25 => if i.val < n then a[i] ^^^ le64 ((data.drop (8 * i)).take 8) else a[i]

/-- State bit `p` flipped (R143, R52). -/
def complementBit (a : Lanes) (p : Nat) : Lanes :=
  setLane a (p / 64) (laneAt a (p / 64) ^^^ (1 <<< (p % 64)))

/-- The bytes of lanes 0..n-1, state byte 0 first (R145, R86). -/
def extractLanes (a : Lanes) (n : Nat) : List Byte := (List.range n).flatMap fun l => bytesOf (laneAt a l) 0 8

/-! ### Status, the error entry and the phases -/

/-- While ERR = 1 the block is halted and accepts nothing (R214). -/
def State.halted (s : State) : Bool := s.err || decide (s.phase = .halt)

/-- TAKING AN ERROR, `raise Error(code, w)` (R213): ERR, ERR_CODE and ERR_CMD are written, the phase becomes HALT and BUSY 0.
A, INIT and every other register keep their values, and no DIN byte is taken. There is no return from it but reset (R217). -/
def State.raiseError (s : State) (code : ErrorCode) (w : Word) : State :=
  { s with err := true, errCode := code, errCmd := w, phase := .halt, busy := false }

/-- The command is accepted and its `n` DIN bytes are taken: the block is in phase EXEC (R72). -/
def State.begin (s : State) (w : Word) (n : Nat) : State :=
  { s with cmdWord := w, busy := true, phase := .exec, dinBuf := s.dinIn.take n, dinIn := s.dinIn.drop n, doutPend := [] }

/-- The command is accepted and the host offers fewer DIN bytes than it needs: the block takes them and waits in phase DIN
(R72, R226). -/
def State.awaitDin (s : State) (w : Word) : State :=
  { s with cmdWord := w, busy := true, phase := .din, dinBuf := s.dinIn, dinIn := [], doutPend := [] }

/-- `DoutWrite` of each byte of a list (R14). -/
def State.doutWrite (s : State) (bytes : List Byte) : State := { s with doutPend := s.doutPend ++ bytes }

/-- The command has finished: the block is IDLE (R72). That the DIN counter goes back to 0 here, and not earlier, is the
model's choice (DESIGN CHOICE, log entry 23). -/
def State.retire (s : State) : State := { s with phase := .idle, busy := false, dinBuf := [] }

/-- The host takes every DOUT byte of the command, in order, and the command finishes (R72, R247). -/
def State.drain (s : State) : State := State.retire { s with doutOut := s.doutOut ++ s.doutPend, doutPend := [] }

/-- A command in progress seen as not yet performed: the DIN bytes it has taken are the first the host offers. Nothing of
its effect has appeared before the end of EXEC (R72). -/
def State.rewind (s : State) : State :=
  { s with phase := .idle, busy := false, dinIn := s.dinBuf ++ s.dinIn, dinBuf := [] }

/-- ONE COMMAND, WHOLE (R57, R60, R72): a halted block has no step (R214); a command that fails its check takes the error
entry and nothing else happens (R213); else its DIN bytes are taken, its effect is performed and its DOUT bytes are given.
`effect` reads the DIN bytes from `dinBuf` and writes the DOUT bytes to `doutPend`. -/
def perform (i : Instr) (effect : State → State) (s : State) : Host.Outcome State Fault Refusal :=
  if s.halted then .fault .halted
  else if check i s.init = .none then
    if nin i ≤ s.dinIn.length then .next (effect (s.begin (encode i) (nin i))).drain
    else .next (s.awaitDin (encode i))
  else .next (s.raiseError (check i s.init) (encode i))

end Sys2Proof.Machine
end

