-- ==== Sys2Proof/Machine/ConstantCommands.lean ====
section
/-! DEFINITION. CINIT, RDRC and RDRHO (40_constants.md R107 to R109). -/

namespace Sys2Proof.Machine

/-- The constants are compiled in, so CINIT has nothing to derive (R107). -/
def cinitEffect (s : State) : State := s

/-- RDRC gives the eight bytes of RC[r], least significant first (R108). -/
def rdrcEffect (r : Nat) (s : State) : State := s.doutWrite (bytesOf (rc r) 0 8)

/-- RDRHO gives `zext_8(RHO[i])` (R109). -/
def rdrhoEffect (i : Nat) (s : State) : State := s.doutWrite [BitVec.ofNat 8 (rhoOffset i)]

/-- CINIT (R107). -/
def execCinit (s : State) : Host.Outcome State Fault Refusal := perform .cinit cinitEffect s

/-- RDRC r (R108). -/
def execRdrc (r : Nat) (s : State) : Host.Outcome State Fault Refusal := perform (.rdrc r) (rdrcEffect r) s

/-- RDRHO i (R109). -/
def execRdrho (i : Nat) (s : State) : Host.Outcome State Fault Refusal := perform (.rdrho i) (rdrhoEffect i) s

end Sys2Proof.Machine
end

