-- ==== Sys2Proof/Machine/Permute.lean ====
section
/-! DEFINITION. PERM (41_permutation.md R128) and the fused XPE (42_state_access.md R146). -/

namespace Sys2Proof.Machine

/-- The lanes become KeccakF of `a`, and the engine's working registers are those of that permutation (R126, R127, R34). -/
def permuteFrom (a : Lanes) (s : State) : State :=
  { s with lanes := keccakF a, engine := s.engine.permute Config.build.rcSource a }

/-- `A <- KeccakF(A)` (R128). -/
def permEffect (s : State) : State := permuteFrom s.lanes s

/-- The body of XORL nin, then KeccakF, then the body of EXTL nout on the permuted state (R146). -/
def xpeEffect (nin nout : Nat) (s : State) : State :=
  let t := permuteFrom (xorLanes s.lanes nin s.dinBuf) s
  t.doutWrite (extractLanes t.lanes nout)

/-- PERM (R128). -/
def execPerm (s : State) : Host.Outcome State Fault Refusal := perform .perm permEffect s

/-- XPE nin, nout (R146). -/
def execXpe (nin nout : Nat) (s : State) : Host.Outcome State Fault Refusal :=
  perform (.xpe nin nout) (xpeEffect nin nout) s

end Sys2Proof.Machine
end

