-- ==== Sys2Proof/Machine/StateAccess.lean ====
section
/-! DEFINITION. SINIT, XORB, XORL, CBIT, EXTB and EXTL (42_state_access.md R140 to R145). -/

namespace Sys2Proof.Machine

/-- Every lane becomes 0 and INIT becomes 1 (R140). -/
def sinitEffect (s : State) : State := { s with lanes := zeroLanes, init := true }

/-- The `len` DIN bytes are XORed into bytes `off` to `off + len - 1` of the lane (R141). -/
def xorbEffect (lane off len : Nat) (s : State) : State :=
  { s with lanes := xorBytesInLane s.lanes lane off (s.dinBuf.take len) }

/-- The `8 n` DIN bytes are XORed into lanes 0 to n - 1 (R142). -/
def xorlEffect (n : Nat) (s : State) : State := { s with lanes := xorLanes s.lanes n s.dinBuf }

/-- Bit `p` of the state is flipped (R143). -/
def cbitEffect (p : Nat) (s : State) : State := { s with lanes := complementBit s.lanes p }

/-- Bytes `off` to `off + len - 1` of the lane are given (R144); A is unchanged (R148). -/
def extbEffect (lane off len : Nat) (s : State) : State := s.doutWrite (bytesOf (laneAt s.lanes lane) off len)

/-- The bytes of lanes 0 to n - 1 are given (R145); A is unchanged (R148). -/
def extlEffect (n : Nat) (s : State) : State := s.doutWrite (extractLanes s.lanes n)

/-- SINIT (R140). -/
def execSinit (s : State) : Host.Outcome State Fault Refusal := perform .sinit sinitEffect s

/-- XORB lane, off, len (R141). -/
def execXorb (lane off len : Nat) (s : State) : Host.Outcome State Fault Refusal :=
  perform (.xorb lane off len) (xorbEffect lane off len) s

/-- XORL n (R142). -/
def execXorl (n : Nat) (s : State) : Host.Outcome State Fault Refusal := perform (.xorl n) (xorlEffect n) s

/-- CBIT p (R143). -/
def execCbit (p : Nat) (s : State) : Host.Outcome State Fault Refusal := perform (.cbit p) (cbitEffect p) s

/-- EXTB lane, off, len (R144). -/
def execExtb (lane off len : Nat) (s : State) : Host.Outcome State Fault Refusal :=
  perform (.extb lane off len) (extbEffect lane off len) s

/-- EXTL n (R145). -/
def execExtl (n : Nat) (s : State) : Host.Outcome State Fault Refusal := perform (.extl n) (extlEffect n) s

end Sys2Proof.Machine
end

