-- ==== Sys2Proof/Machine/Dispatch.lean ====
section
/-! DEFINITION. The meaning of each command, one arm for each row of spec/opcode_table.json. -/

namespace Sys2Proof.Machine

def exec (i : Instr) (s : State) : Host.Outcome State Fault Refusal :=
  match i with
  | .cinit => Sys2Proof.Machine.execCinit s
  | .sinit => Sys2Proof.Machine.execSinit s
  | .xorb lane off len => Sys2Proof.Machine.execXorb lane off len s
  | .xorl n => Sys2Proof.Machine.execXorl n s
  | .cbit p => Sys2Proof.Machine.execCbit p s
  | .perm => Sys2Proof.Machine.execPerm s
  | .extb lane off len => Sys2Proof.Machine.execExtb lane off len s
  | .extl n => Sys2Proof.Machine.execExtl n s
  | .xpe nin nout => Sys2Proof.Machine.execXpe nin nout s
  | .rdrc r => Sys2Proof.Machine.execRdrc r s
  | .rdrho k => Sys2Proof.Machine.execRdrho k s

end Sys2Proof.Machine
end

