-- ==== Sys2Proof/Machine/Fetch.lean ====
section
/-! DEFINITION. Taking the next command from the command port and performing it (30_encoding.md R72, 20_memory.md R60). -/

namespace Sys2Proof.Machine

/-- A command word is accepted: it is decoded and performed, or rejected with its decoding error (R82, R83, R212). -/
def runWord (w : Word) (s : State) : Host.Outcome State Fault Refusal :=
  match decode w with
  | .ok i => exec i s
  | .error e => if s.halted then .fault .halted else .next (s.raiseError (decodeErrorCode e) w)

/-- An idle block takes the word the host offers next; with none offered it stays idle and holds its state (R71, R225). -/
def acceptNext (s : State) : Host.Outcome State Fault Refusal :=
  match s.cmdIn with
  | [] => .next s
  | w :: ws => runWord w { s with cmdIn := ws }

/-- One step by phase: a halted block is stuck (R214); an idle block takes the next command whole (R60); a command in
progress is carried to its end, or waits on for its DIN bytes (R72, R226). -/
def stepByPhase (s : State) : Host.Outcome State Fault Refusal :=
  if s.halted then .fault .halted
  else
    match s.phase with
    | .idle => acceptNext s
    | .din => runWord s.cmdWord s.rewind
    | .exec => runWord s.cmdWord s.rewind
    | .dout => .next s.drain
    | .halt => .fault .halted

end Sys2Proof.Machine
end

