-- ==== Sys2Proof/Machine/Step.lean ====
section
/-! DEFINITION. The step of the block: one command, whole (20_memory.md R60). -/

namespace Sys2Proof.Machine

/-- One atomic step (R60). -/
def step (s : State) : Host.Outcome State Fault Refusal := stepByPhase s

/-- `s` with the instruction whose bits are `w` (the bits above `nbits` zero) offered as the next command word: where the
step of an idle block takes its next command from (log entry 2). -/
def State.withFetchWord (s : State) (nbits w : Nat) : State :=
  { s with cmdIn := BitVec.ofNat 32 (w % 2 ^ nbits) :: s.cmdIn }

end Sys2Proof.Machine
end

