-- ==== Sys2Proof/Machine/Ports.lean ====
section
/-! DEFINITION. The ports, clock edge by clock edge (30_encoding.md R70 to R72; 70_reset_and_hazards.md R240 to R242;
10_state.md R34). `step` takes a command as one atomic step (20_memory.md R60); this file is the block under it, transfer
by transfer and round by round, over the same State. -/

namespace Sys2Proof.Machine

/-- What the block sees at one rising edge of clk (R70). A channel's `valid` and data are one Option: `some` while valid. -/
structure PortsIn where
  rst : Bool
  cmd : Option Word
  din : Option Byte
  doutReady : Bool
  deriving DecidableEq, Repr

/-- What the block drives in a cycle (R70); `dout` is `some` while dout_valid is 1. -/
structure PortsOut where
  cmdReady : Bool
  dinReady : Bool
  dout : Option Byte
  status : Word
  errCmd : Word
  deriving DecidableEq, Repr

/-- The outputs in a cycle (R72); while rst is 1 no channel is ready or valid (R240). -/
def State.ports (s : State) (rst : Bool) : PortsOut where
  cmdReady := !rst && decide (s.phase = .idle) && !s.err
  dinReady := !rst && decide (s.phase = .din)
  dout := if rst = false ∧ s.phase = .dout then s.doutPend.head? else none
  status := s.statusWord
  errCmd := s.errCmd

/-- A reset edge (R240, R241): the values of R35; what R35 leaves unspecified becomes a free value (log entry 8). The host's
ends of the channels are not the block's and are kept. -/
def State.resetEdge (s : State) : State :=
  { State.reset with
    lanes := Vector.ofFn fun i : Fin 25 => Config.freeLane s.draws 0 i
    cmdWord := Config.freeCmdWord s.draws
    engine :=
      { round := (Config.freeRound s.draws).val
        stage := Vector.ofFn fun i : Fin 25 => Config.freeLane s.draws 1 i
        colC := Vector.ofFn fun i : Fin 5 => Config.freeLane s.draws 2 i
        colD := Vector.ofFn fun i : Fin 5 => Config.freeLane s.draws 3 i
        lfsr := Config.freeLfsr s.draws }
    draws := s.draws + 1
    cmdIn := s.cmdIn
    dinIn := s.dinIn
    doutOut := s.doutOut }

/-- The lanes a command permutes, if it is one that permutes: A for PERM, A with the DIN lanes XORed in for XPE (R128, R146). -/
def permInput (s : State) : Instr → Option Lanes
  | .cinit => none
  | .sinit => none
  | .xorb _ _ _ => none
  | .xorl _ => none
  | .cbit _ => none
  | .perm => some s.lanes
  | .extb _ _ _ => none
  | .extl _ => none
  | .xpe n _ => some (xorLanes s.lanes n s.dinBuf)
  | .rdrc _ => none
  | .rdrho _ => none

/-- What a command's rule does to the state in phase EXEC: it reads the DIN bytes taken and writes the DOUT bytes to give. -/
def effectOf : Instr → State → State
  | .cinit => cinitEffect
  | .sinit => sinitEffect
  | .xorb lane off len => xorbEffect lane off len
  | .xorl n => xorlEffect n
  | .cbit p => cbitEffect p
  | .perm => permEffect
  | .extb lane off len => extbEffect lane off len
  | .extl n => extlEffect n
  | .xpe n m => xpeEffect n m
  | .rdrc r => rdrcEffect r
  | .rdrho i => rdrhoEffect i

/-- The command the latched word stands for. -/
def State.latched (s : State) : Option Instr :=
  match decode s.cmdWord with
  | .ok i => some i
  | .error _ => none

/-- Phase EXEC is entered; a command that permutes loads the engine (log entry 9). -/
def State.enterExec (s : State) : State :=
  { s with
    phase := .exec
    engine := match s.latched.bind (permInput s) with
      | some a => s.engine.load Config.build.rcSource a
      | none => s.engine }

/-- A cmd transfer of word `w` (R72): the check; then the error entry, phase DIN or phase EXEC. -/
def State.acceptWord (s : State) (w : Word) : State :=
  if checkWord w s.init = .none then
    let t := { s with busy := true, cmdWord := w, dinBuf := [], doutPend := [] }
    match t.latched with
    | some i => if nin i > 0 then { t with phase := .din } else t.enterExec
    | none => t
  else s.raiseError (checkWord w s.init) w

/-- A din transfer of byte `b`; after the Nin-th byte the phase is EXEC (R72). -/
def State.takeByte (s : State) (b : Byte) : State :=
  let t := { s with dinBuf := s.dinBuf ++ [b] }
  match t.latched with
  | some i => if t.dinBuf.length < nin i then t else t.enterExec
  | none => t

/-- The end of EXEC: phase DOUT if the command has output, else the command has finished (R72). -/
def State.endExec (s : State) : State := if s.doutPend = [] then s.retire else { s with phase := .dout }

/-- A permutation's last edge: the staged lanes become A and, for XPE, its DOUT bytes are theirs (R126, R146). -/
def State.commitPermutation (s : State) (i : Instr) (e : Engine) : State :=
  let t := { s with lanes := e.stage, engine := e.stop }
  match i with
  | .xpe _ m => t.doutWrite (extractLanes t.lanes m)
  | _ => t

/-- An EXEC edge at which the pipeline moves: `P_ROUNDS_PER_CYCLE` rounds of a permutation, whose effect appears after the
24th (R72, R252), or the whole effect of any other command. -/
def State.execEdge (s : State) : State :=
  match s.latched with
  | none => s
  | some i =>
    match permInput s i with
    | none => (effectOf i s).endExec
    | some _ =>
      let e := Engine.runRounds Config.build.rcSource Config.build.roundsPerCycle.count s.engine
      if e.round < 24 then { s with engine := e } else (s.commitPermutation i e).endExec

/-- A dout transfer of the next pending byte; after the last the command has finished (R72). -/
def State.doutTaken (s : State) : State :=
  if s.doutPend.tail = [] then State.retire { s with doutPend := [] } else { s with doutPend := s.doutPend.tail }

/-- One rising edge of clk (R71, R72, R240). `advance` says whether the pipeline moves at this edge if the phase is EXEC: no
latency is specified, so every choice is allowed (R252, log entry 13). -/
def clock (p : PortsIn) (advance : Bool) (s : State) : State :=
  if p.rst then s.resetEdge
  else
    match s.phase with
    | .idle =>
      match p.cmd with
      | some w => if s.err then s else s.acceptWord w
      | none => s
    | .din =>
      match p.din with
      | some b => s.takeByte b
      | none => s
    | .exec => if advance then s.execEdge else s
    | .dout => if p.doutReady then s.doutTaken else s
    | .halt => s

/-- What the host and the pipeline do in one cycle: whether the host offers its next command word, offers its next DIN byte
and is ready for a DOUT byte (R71: it may wait on each as long as it likes), and whether the pipeline moves. -/
structure Move where
  cmd : Bool
  din : Bool
  dout : Bool
  advance : Bool
  deriving DecidableEq, Repr

/-- The port inputs of a move, from the host's queues. -/
def Move.ports (m : Move) (s : State) : PortsIn where
  rst := false
  cmd := if m.cmd then s.cmdIn.head? else none
  din := if m.din then s.dinIn.head? else none
  doutReady := m.dout

/-- The host's ends of the channels after a cycle: what was transferred leaves its queue, or joins `doutOut` (R71). -/
def Move.settle (m : Move) (before after : State) : State :=
  { after with
    cmdIn := if m.cmd && (before.ports false).cmdReady then before.cmdIn.tail else before.cmdIn
    dinIn := if m.din && (before.ports false).dinReady then before.dinIn.tail else before.dinIn
    doutOut := if m.dout then before.doutOut ++ (before.ports false).dout.toList else before.doutOut }

/-- One clock cycle of the block and the host together. -/
def tick (m : Move) (s : State) : State := m.settle s (clock (m.ports s) m.advance s)

/-- `n` cycles of the same move. -/
def ticks (m : Move) : Nat → State → State
  | 0, s => s
  | n + 1, s => ticks m n (tick m s)

end Sys2Proof.Machine
end

