-- ==== Sys2Proof/Machine/Complement.lean ====
section
/-! DEFINITION. The lane complement transform (44_complement.md R190 to R198). The chi table is that of R196; the source's
sentence "AND in place of AND-NOT throughout" is not followed (90_conflicts.md C1). -/

namespace Sys2Proof.Machine

/-- The complement set S (R190). -/
def complementSet : List Nat := [1, 2, 8, 12, 17, 20]

/-- M_in: the lanes that carry an all-ones mask when chi begins (R195, C2). -/
def chiInputSet : List Nat := [0, 2, 3, 5, 7, 10, 12, 16, 18, 19, 20, 23]

/-- The mask of a lane set at lane `i`: all ones in the set, else zero (R191). -/
def maskOf (w : Nat) (set : List Nat) (i : Nat) : BitVec w := if i ∈ set then BitVec.allOnes w else 0

/-- The mask `m(i)` under the parameter `P_COMPLEMENT` (10_state.md R32). -/
def complementMask (w : Nat) (complement : Bool) (i : Nat) : BitVec w :=
  if complement then maskOf w complementSet i else 0

/-- The seven shapes of R196's chi table, in its operands a, b and c. -/
inductive ChiForm where
  /-- `a ^ ( b | c)` -/
  | orForm
  /-- `a ^ (~b | c)` -/
  | notBOr
  /-- `a ^ ( b & c)` -/
  | andForm
  /-- `a ^ ( b | ~c)` -/
  | orNotC
  /-- `a ^ (~b & c)` -/
  | notBAnd
  /-- `~a ^ ( b | c)` -/
  | notAOr
  /-- `~a ^ ( b & c)` -/
  | notAAnd
  deriving DecidableEq, Repr

/-- The value of a shape. -/
def ChiForm.value {w : Nat} (f : ChiForm) (a b c : BitVec w) : BitVec w :=
  match f with
  | .orForm => a ^^^ (b ||| c)
  | .notBOr => a ^^^ (~~~b ||| c)
  | .andForm => a ^^^ (b &&& c)
  | .orNotC => a ^^^ (b ||| ~~~c)
  | .notBAnd => a ^^^ (~~~b &&& c)
  | .notAOr => ~~~a ^^^ (b ||| c)
  | .notAAnd => ~~~a ^^^ (b &&& c)

/-- The chi table of R196, by lane. -/
def chiTable : Vector ChiForm 25 :=
  #v[.orForm, .notBOr, .andForm, .orForm, .andForm,
     .orForm, .andForm, .orNotC, .orForm, .andForm,
     .orForm, .andForm, .notBAnd, .notAOr, .andForm,
     .andForm, .orForm, .notBOr, .notAAnd, .orForm,
     .notBAnd, .notAOr, .andForm, .orForm, .andForm]

/-- chi on raw lanes that carry the mask of M_in; its output carries the mask of S (R196). -/
def chiComplement {w : Nat} (a : Vector (BitVec w) 25) : Vector (BitVec w) 25 :=
  Vector.ofFn fun i : Fin 25 =>
    chiTable[i].value a[i] a[idx (i.val % 5 + 1) (i.val / 5)] a[idx (i.val % 5 + 2) (i.val / 5)]

/-- The chi of a build (R178, R196). -/
def chiOf {w : Nat} (complement : Bool) (a : Vector (BitVec w) 25) : Vector (BitVec w) 25 :=
  if complement then chiComplement a else chi a

/-- The lanes with the mask of a set XORed in (R191). -/
def maskLanes (set : List Nat) (a : Lanes) : Lanes := Vector.ofFn fun i : Fin 25 => a[i] ^^^ maskOf 64 set i

end Sys2Proof.Machine
end

