-- ==== Sys2Proof/Machine/Interleave.lean ====
section
/-! DEFINITION. The bit-interleaved 32-bit lane mapper (43_interleave.md R170 to R178): lanes as pairs of halves, and one
round done half by half. -/

namespace Sys2Proof.Machine

/-- The even-position bits of a lane, packed at index i/2 (R170). -/
def ilvEven (l : Lane) : Half := ofBits 32 fun j => l.getLsbD (2 * j)

/-- The odd-position bits of a lane, packed at index (i-1)/2 (R170). -/
def ilvOdd (l : Lane) : Half := ofBits 32 fun j => l.getLsbD (2 * j + 1)

/-- `Ilv(L) = (E, O)` (R170). -/
def ilv (l : Lane) : Half × Half := (ilvEven l, ilvOdd l)

/-- The lane with `L[2j] = E[j]` and `L[2j+1] = O[j]` (R171). -/
def dilv (p : Half × Half) : Lane :=
  ofBits 64 fun i => if i % 2 = 0 then p.1.getLsbD (i / 2) else p.2.getLsbD (i / 2)

/-- A 64-bit left rotation by `k` done on the halves (R174); on an odd amount the halves swap. -/
def ilvRotl (p : Half × Half) (k : Nat) : Half × Half :=
  if k % 2 = 0 then (rotl p.1 (k / 2), rotl p.2 (k / 2)) else (rotl p.2 ((k + 1) / 2), rotl p.1 ((k - 1) / 2))

/-- The interleaved round-constant table of R176, as (even, odd). -/
def rciTable : Vector (Half × Half) 24 :=
  #v[(0x00000001, 0x00000000), (0x00000000, 0x00000089), (0x00000000, 0x8000008B), (0x00000000, 0x80008080),
     (0x00000001, 0x0000008B), (0x00000001, 0x00008000), (0x00000001, 0x80008088), (0x00000001, 0x80000082),
     (0x00000000, 0x0000000B), (0x00000000, 0x0000000A), (0x00000001, 0x00008082), (0x00000000, 0x00008003),
     (0x00000001, 0x0000808B), (0x00000001, 0x8000000B), (0x00000001, 0x8000008A), (0x00000001, 0x80000081),
     (0x00000000, 0x80000081), (0x00000000, 0x80000008), (0x00000000, 0x00000083), (0x00000000, 0x80008003),
     (0x00000001, 0x80008088), (0x00000000, 0x80000088), (0x00000001, 0x00008000), (0x00000000, 0x80008082)]

/-- `RCI[r]`, for `r < 24` (R176). -/
def rci (r : Nat) : Half × Half := (rciTable[r]?).getD (0, 0)

/-- How the interleaved rho moves the halves of a lane: whether they swap, the amount of the new even half and the amount
of the new odd half (R177). -/
structure RhoHalves where
  swap : Bool
  even : Nat
  odd : Nat
  deriving DecidableEq, Repr

/-- The table of R177, by lane. -/
def rhoHalvesTable : Vector RhoHalves 25 :=
  #v[⟨false, 0, 0⟩, ⟨true, 1, 0⟩, ⟨false, 31, 31⟩, ⟨false, 14, 14⟩, ⟨true, 14, 13⟩,
     ⟨false, 18, 18⟩, ⟨false, 22, 22⟩, ⟨false, 3, 3⟩, ⟨true, 28, 27⟩, ⟨false, 10, 10⟩,
     ⟨true, 2, 1⟩, ⟨false, 5, 5⟩, ⟨true, 22, 21⟩, ⟨true, 13, 12⟩, ⟨true, 20, 19⟩,
     ⟨true, 21, 20⟩, ⟨true, 23, 22⟩, ⟨true, 8, 7⟩, ⟨true, 11, 10⟩, ⟨false, 4, 4⟩,
     ⟨false, 9, 9⟩, ⟨false, 1, 1⟩, ⟨true, 31, 30⟩, ⟨false, 28, 28⟩, ⟨false, 7, 7⟩]

/-- The interleaved state: the even halves and the odd halves of the 25 lanes (R178). -/
structure Halves where
  even : HalfLanes
  odd : HalfLanes
  deriving DecidableEq, Repr

/-- theta half by half: D of the even half takes the odd parity rotated by 1, D of the odd half the even parity as it is
(R178). -/
def thetaHalves (h : Halves) : Halves :=
  let pe : Vector Half 5 := Vector.ofFn fun x : Fin 5 =>
    h.even[idx x 0] ^^^ h.even[idx x 1] ^^^ h.even[idx x 2] ^^^ h.even[idx x 3] ^^^ h.even[idx x 4]
  let po : Vector Half 5 := Vector.ofFn fun x : Fin 5 =>
    h.odd[idx x 0] ^^^ h.odd[idx x 1] ^^^ h.odd[idx x 2] ^^^ h.odd[idx x 3] ^^^ h.odd[idx x 4]
  let de : Vector Half 5 := Vector.ofFn fun x : Fin 5 => rotl po[x + 1] 1 ^^^ pe[x + 4]
  let dod : Vector Half 5 := Vector.ofFn fun x : Fin 5 => pe[x + 1] ^^^ po[x + 4]
  { even := Vector.ofFn fun i : Fin 25 => h.even[i] ^^^ de[Fin.ofNat 5 i.val]
    odd := Vector.ofFn fun i : Fin 25 => h.odd[i] ^^^ dod[Fin.ofNat 5 i.val] }

/-- rho half by half (R178), with the swap and the amounts of R177. -/
def rhoHalves (h : Halves) : Halves where
  even := Vector.ofFn fun i : Fin 25 =>
    rotl (if rhoHalvesTable[i].swap then h.odd[i] else h.even[i]) rhoHalvesTable[i].even
  odd := Vector.ofFn fun i : Fin 25 =>
    rotl (if rhoHalvesTable[i].swap then h.even[i] else h.odd[i]) rhoHalvesTable[i].odd

/-- iota half by half: RCI[r] into the two halves of lane 0 (R178). -/
def iotaHalves (h : Halves) (r : Nat) : Halves where
  even := Vector.ofFn fun i : Fin 25 => if i = 0 then h.even[i] ^^^ (rci r).1 else h.even[i]
  odd := Vector.ofFn fun i : Fin 25 => if i = 0 then h.odd[i] ^^^ (rci r).2 else h.odd[i]

end Sys2Proof.Machine
end

