-- ==== Sys2Proof/Machine/Raw.lean ====
section
/-! DEFINITION. The raw state R and every command on it (10_state.md R32, R33; 43_interleave.md R175, R178, R179;
44_complement.md R191 to R197). State holds A; R is its image under Enc, and nothing the block outputs depends on the form
(R180, R200; log entry 11). -/

namespace Sys2Proof.Machine

/-- The block's raw storage: 25 lanes, or 50 half-lanes under `P_INTERLEAVE` (R32, R175). -/
inductive RawLanes where
  | whole (v : Lanes)
  | halves (h : HalfArray)
  deriving DecidableEq, Repr

/-- `H[2i]` the even and `H[2i+1]` the odd half of lane i (R175). -/
def joinHalves (h : Halves) : HalfArray :=
  Vector.ofFn fun k : Fin 50 =>
    if k.val % 2 = 0 then h.even[(⟨k.val / 2, by omega⟩ : Fin 25)] else h.odd[(⟨k.val / 2, by omega⟩ : Fin 25)]

/-- The even and the odd halves of the raw array (R175). -/
def splitHalves (h : HalfArray) : Halves where
  even := Vector.ofFn fun i : Fin 25 => h[(⟨2 * i.val, by omega⟩ : Fin 50)]
  odd := Vector.ofFn fun i : Fin 25 => h[(⟨2 * i.val + 1, by omega⟩ : Fin 50)]

/-- The lanes as interleaved halves (R170, R175). -/
def halvesOf (a : Lanes) : Halves where
  even := Vector.ofFn fun i : Fin 25 => ilvEven a[i]
  odd := Vector.ofFn fun i : Fin 25 => ilvOdd a[i]

/-- Lanes stored in the form of the build, with no mask (R32). -/
def store (interleave : Bool) (a : Lanes) : RawLanes :=
  if interleave then .halves (joinHalves (halvesOf a)) else .whole a

/-- The lanes a raw form stores, with the mask still in them (R171, R175). -/
def RawLanes.load : RawLanes → Lanes
  | .whole v => v
  | .halves h => Vector.ofFn fun i : Fin 25 => dilv ((splitHalves h).even[i], (splitHalves h).odd[i])

/-- Each lane XORed with its mask `m(i)` (R32). -/
def xorMask (complement : Bool) (a : Lanes) : Lanes :=
  Vector.ofFn fun i : Fin 25 => a[i] ^^^ complementMask 64 complement i

/-- `Enc`: the raw form of the logical lanes (R32). -/
def enc (p : BuildParams) (a : Lanes) : RawLanes := store p.interleave (xorMask p.complement a)

/-- `Dec`, the inverse of `Enc` (R33): de-interleave, then undo the complement (R179, R194). -/
def dec (p : BuildParams) (r : RawLanes) : Lanes := xorMask p.complement r.load

/-- The raw storage of the block as built (R32). -/
def State.raw (s : State) : RawLanes := enc Config.build s.lanes

/-- XOR of the value `v i` into each raw lane i, half by half under `P_INTERLEAVE` (R172, R179, R193). -/
def RawLanes.xorEach (v : Fin 25 → Lane) : RawLanes → RawLanes
  | .whole a => .whole (Vector.ofFn fun i : Fin 25 => a[i] ^^^ v i)
  | .halves h =>
    .halves (joinHalves
      { even := Vector.ofFn fun i : Fin 25 => (splitHalves h).even[i] ^^^ ilvEven (v i)
        odd := Vector.ofFn fun i : Fin 25 => (splitHalves h).odd[i] ^^^ ilvOdd (v i) })

/-- SINIT on the raw form: the raw lanes are the masks alone (R179, R192). -/
def rawSinit (p : BuildParams) : RawLanes :=
  store p.interleave (Vector.ofFn fun i : Fin 25 => complementMask 64 p.complement i)

/-- XORB on the raw form (R179, R193). -/
def rawXorBytesInLane (l off : Nat) (data : List Byte) (r : RawLanes) : RawLanes :=
  r.xorEach fun i => if i.val = l then le64 data <<< (8 * off) else 0

/-- XORL on the raw form (R179, R193). -/
def rawXorLanes (n : Nat) (data : List Byte) (r : RawLanes) : RawLanes :=
  r.xorEach fun i => if i.val < n then le64 ((data.drop (8 * i)).take 8) else 0

/-- CBIT on the raw form: bit `b` of a lane is bit b/2 of its even half, or bit (b-1)/2 of its odd half (R179). -/
def rawComplementBit (p : Nat) : RawLanes → RawLanes
  | .whole a => .whole (complementBit a p)
  | .halves h =>
    let k := 2 * (p / 64) + p % 64 % 2
    .halves (Vector.ofFn fun j : Fin 50 => if j.val = k then h[j] ^^^ (1 <<< (p % 64 / 2)) else h[j])

/-- One round on the raw form of a build (R178, R195 to R197). -/
def rawRound (p : BuildParams) (r : Nat) : RawLanes → RawLanes
  | .whole a => .whole (iota (chiOf p.complement (pi (rho (theta a)))) r)
  | .halves h =>
    let t := rhoHalves (thetaHalves (splitHalves h))
    .halves (joinHalves (iotaHalves
      { even := chiOf p.complement (pi t.even), odd := chiOf p.complement (pi t.odd) } r))

/-- Rounds 0 to n - 1 on the raw form. -/
def rawRounds (p : BuildParams) (r : RawLanes) : Nat → RawLanes
  | 0 => r
  | n + 1 => rawRound p n (rawRounds p r n)

/-- A whole permutation on the raw form (R180, R200). -/
@[irreducible] def rawKeccakF (p : BuildParams) (r : RawLanes) : RawLanes := rawRounds p r 24

/-- A command on the raw form: the new raw lanes and the DOUT bytes (R179, R193, R194). Extraction undoes the transforms on
the way out and never writes back. -/
def rawCommand (p : BuildParams) (data : List Byte) (r : RawLanes) : Instr → RawLanes × List Byte
  | .cinit => (r, [])
  | .sinit => (rawSinit p, [])
  | .xorb lane off len => (rawXorBytesInLane lane off (data.take len) r, [])
  | .xorl n => (rawXorLanes n data r, [])
  | .cbit b => (rawComplementBit b r, [])
  | .perm => (rawKeccakF p r, [])
  | .extb lane off len => (r, bytesOf (laneAt (dec p r) lane) off len)
  | .extl n => (r, extractLanes (dec p r) n)
  | .xpe n m =>
    let r' := rawKeccakF p (rawXorLanes n data r)
    (r', extractLanes (dec p r') m)
  | .rdrc k => (r, bytesOf (rc k) 0 8)
  | .rdrho k => (r, [BitVec.ofNat 8 (rhoOffset k)])

end Sys2Proof.Machine
end

