-- ==== Sys2Proof/Safety.lean ====
section
/-! DEFINITION. What the claims are stated in: the invariants of the state, a clean step, and the observation of a run
(70_reset_and_hazards.md R253). -/

namespace Sys2Proof.Machine

/-- The invariant of the status and phase registers: ERR goes with HALT (R25, R72); ERR_CODE and ERR_CMD are NONE and 0
while ERR = 0, and ERR_CODE is not NONE while ERR = 1 (R26, R27); BUSY is 1 exactly in DIN, EXEC and DOUT (R28, R72); the
DIN and DOUT buffers are empty when no command is in progress (R35; between commands the model's choice, log entry 23); a command in progress passed
its check (R212). -/
structure State.Inv (s : State) : Prop where
  err_iff_halt : s.err = true ↔ s.phase = .halt
  code_none : s.err = false → s.errCode = .none ∧ s.errCmd = 0
  code_some : s.err = true → s.errCode ≠ .none
  busy_iff : s.busy = true ↔ s.phase = .din ∨ s.phase = .exec ∨ s.phase = .dout
  no_din : s.phase = .idle ∨ s.phase = .halt → s.dinBuf = []
  no_dout : s.phase ≠ .dout → s.doutPend = []
  in_progress : s.phase = .din ∨ s.phase = .exec → checkWord s.cmdWord s.init = .none

/-- The working invariant of the clocked block: beside `Inv`, the DIN counter is below Nin in phase DIN and at Nin in phase
EXEC (log entry 23); a DOUT byte is pending in phase DOUT; and in phase EXEC a permutation has had a whole number of cycles'
rounds, fewer than 24 in all (log entry 9). -/
structure State.ClockInv (s : State) : Prop extends s.Inv where
  din_short : s.phase = .din → ∃ i, decode s.cmdWord = .ok i ∧ s.dinBuf.length < nin i
  din_full : s.phase = .exec → ∃ i, decode s.cmdWord = .ok i ∧ s.dinBuf.length = nin i
  dout_some : s.phase = .dout → s.doutPend ≠ []
  rounds_done : s.phase = .exec → ∀ i a, decode s.cmdWord = .ok i → permInput s i = some a →
    ∃ (k : Nat) (e : Engine), k * Config.build.roundsPerCycle.count < 24 ∧
      s.engine = Engine.runRounds Config.build.rcSource (k * Config.build.roundsPerCycle.count)
        (e.load Config.build.rcSource a)

/-- The state a clocked state stands for: the command in progress carried to its end by the atomic step. -/
def State.settled (s : State) : State :=
  match s.phase with
  | .idle => s
  | .halt => s
  | _ =>
    match step s with
    | .next t => t
    | _ => s

/-- What every command that is performed whole leaves: the block IDLE with its buffers empty and the word latched, exactly
Nin DIN bytes taken, no error recorded, and the other words the host offers untouched (R72, R84, R246). That the latched
word is still there in phase IDLE and the DIN buffer empty is the model's choice (log entries 12, 20 and 23). It says nothing of A, INIT, the working
registers and the DOUT bytes, which are each command's own. -/
structure State.Finished (i : Instr) (s t : State) : Prop where
  phase : t.phase = .idle
  busy : t.busy = false
  cmdWord : t.cmdWord = encode i
  dinBuf : t.dinBuf = []
  doutPend : t.doutPend = []
  dinIn : t.dinIn = s.dinIn.drop (nin i)
  err : t.err = s.err
  errCode : t.errCode = s.errCode
  errCmd : t.errCmd = s.errCmd
  cmdIn : t.cmdIn = s.cmdIn
  draws : t.draws = s.draws

/-- The block is idle and has taken no error: where a run may end (R253). -/
def State.clean (s : State) : Bool := decide (s.phase = .idle) && !s.err

/-- A command given to the block with its DIN bytes (R253). -/
structure Given where
  word : Word
  din : List Byte
  deriving DecidableEq, Repr

/-- The host offers one command and its DIN bytes. -/
def State.give (s : State) (g : Given) : State := { s with cmdIn := [g.word], dinIn := g.din }

/-- The observation of a run from `s`: the DOUT bytes of each command and the final status word. There is none if an error
was taken, if the block waits for DIN bytes, or if DIN bytes are left over (R246, R253). -/
def observe : List Given → State → Option (List (List Byte) × Word)
  | [], s => if s.clean then some ([], s.statusWord) else none
  | g :: gs, s =>
    match step (s.give g) with
    | .next t =>
      if t.clean && t.dinIn.isEmpty then
        (observe gs t).map fun o => (t.doutOut.drop s.doutOut.length :: o.1, o.2)
      else none
    | _ => none

/-- Two states that differ at most in what no host can see: the lanes while INIT = 0, and the working registers
(R24, R34, R35). -/
def State.sameToHost (s t : State) : Prop :=
  s.init = t.init ∧ s.err = t.err ∧ s.errCode = t.errCode ∧ s.errCmd = t.errCmd ∧ s.busy = t.busy ∧
    s.phase = t.phase ∧ s.cmdWord = t.cmdWord ∧ s.dinBuf = t.dinBuf ∧ s.doutPend = t.doutPend ∧
    s.cmdIn = t.cmdIn ∧ s.dinIn = t.dinIn ∧ s.doutOut = t.doutOut ∧ (s.init = true → s.lanes = t.lanes)

end Sys2Proof.Machine
end

