-- ==== Sys2Proof/Certificates/Slice0/Obligations.lean ====
section
/-! DEFINITION. The statements about the block, for the provers. Each docstring names the rule of spec/ it formalises. -/

open Sys2Proof Sys2Proof.Machine

/-! ## Encoding -/

/-- Decoding the encoding of a well-formed command gives it back, with every operand at every value its field admits
(30_encoding.md R73 to R81, R89). -/
def Obligations.DecodeOfEncodeIsIdentity : Prop :=
  ∀ i : Instr, i.WellFormed → decode (encode i) = .ok i

/-- A word that decodes is the encoding of the command it decodes to, and that command is well-formed: no bit of a legal
word is dropped (R73 to R81, R88). -/
def Obligations.EncodeOfDecodeIsIdentity : Prop :=
  ∀ (w : Word) (i : Instr), decode w = .ok i → i.WellFormed ∧ encode i = w

/-- A word decodes to a command exactly when it matches that command's row of the opcode table, and no other row; a word
that does not decode matches none (R80). -/
def Obligations.DecodeFollowsTheOpcodeTable : Prop :=
  ∀ w : Word,
    (∀ i, decode w = .ok i → ∀ k row, opcodeTable[k]? = some row → (matchesRow w row = true ↔ k = tableRow i)) ∧
      (∀ e, decode w = .error e → ∀ row ∈ opcodeTable, matchesRow w row = false)

/-- R82 whole: which words are illegal and which malformed, that the all-zero word is illegal, and that either is rejected
at once with its error, taking no DIN byte and writing nothing to A. -/
def Obligations.IllegalAndMalformedWordsAreRejected : Prop :=
  (∀ w : Word, decode w = .error .illegalOpcode ↔ field w 0 4 ∈ [0x0, 0xC, 0xD, 0xE, 0xF]) ∧
    (∀ w : Word, decode w = .error .reservedBits ↔
      field w 0 4 ∉ [0x0, 0xC, 0xD, 0xE, 0xF] ∧ w &&& reservedMask (field w 0 4) ≠ 0) ∧
    decode 0 = .error .illegalOpcode ∧
    ∀ (w : Word) (e : DecodeError) (s : State) (ws : List Word), decode w = .error e → s.halted = false →
      s.phase = .idle → s.cmdIn = w :: ws →
      ∃ t, step s = .next t ∧ t.err = true ∧ t.errCode = decodeErrorCode e ∧ t.errCmd = w ∧ t.phase = .halt ∧
        t.dinIn = s.dinIn ∧ t.doutOut = s.doutOut ∧ t.lanes = s.lanes ∧ t.init = s.init

/-- Words written out from the formats R74 to R79 decode to the commands they stand for (a sanity check). -/
def Obligations.FormatWordsDecode : Prop :=
  decode 0b0000000000000000000000000000_0010 = .ok .sinit ∧
    decode 0b0000000000000000_0101_011_00011_0011 = .ok (.xorb 3 3 5) ∧
    decode 0b00000000000000000_11000111111_0101 = .ok (.cbit 1599) ∧
    decode 0b000000000000000000_00001_00010_1001 = .ok (.xpe 2 1)

/-- The expansions of the three pseudo-instructions, and the word of NOP (R90). -/
def Obligations.PseudoInstructionsExpand : Prop :=
  expand .nop = .cinit ∧ encode (expand .nop) = 0x00000001 ∧
    ∀ n : Nat, expand (.permext n) = .xpe 0 n ∧ expand (.xorperm n) = .xpe n 0

/-! ## The check, the error entry and the step -/

/-- R212: the check made on a word through its decoding is the one R212 writes out on the word's bits; and CINIT, SINIT,
RDRC and RDRHO never raise NOT_INIT. -/
def Obligations.CheckIsTheWrittenCheck : Prop :=
  (∀ (w : Word) (init : Bool), checkWord w init = checkBits w init) ∧
    ∀ (init : Bool) (n : Nat), check .cinit init ≠ .notInit ∧ check .sinit init ≠ .notInit ∧
      check (.rdrc n) init ≠ .notInit ∧ check (.rdrho n) init ≠ .notInit

/-- R213: the error entry of a rejected word writes ERR, ERR_CODE, ERR_CMD and the phase, and nothing else; it takes no DIN
byte, and the ports go quiet. (`cmdIn` is the host's queue, which the accepted word leaves.) -/
def Obligations.ErrorEntryOfARejectedWord : Prop :=
  ∀ (s : State) (w : Word) (ws : List Word), s.halted = false → s.phase = .idle → s.cmdIn = w :: ws →
    checkWord w s.init ≠ .none →
    ∃ t, step s = .next t ∧
      t = { s with
        cmdIn := ws, err := true, errCode := checkWord w s.init, errCmd := w, phase := .halt, busy := false } ∧
      (t.ports false).cmdReady = false ∧ (t.ports false).dinReady = false ∧ (t.ports false).dout = none

/-- The halt (R214): a block with ERR = 1 has no step, accepts nothing at any clock edge but reset and keeps its
status; no command has a meaning there, and a run from it is never observed. The premise `Inv` rules out states no run
reaches. -/
def Obligations.HaltedBlockIsStuck : Prop :=
  ∀ s : State, s.Inv → s.err = true →
    step s = .fault .halted ∧ (∀ i, exec i s = .fault .halted) ∧
      (∀ p advance, p.rst = false → clock p advance s = s) ∧
      (s.ports false).cmdReady = false ∧ (s.ports false).dinReady = false ∧ (s.ports false).dout = none ∧
      ∀ gs, observe gs s = none

/-- A step of an idle block runs the decoded command: when the word offered decodes, the step is `exec` of it on the state
with that word taken from the host's queue; when it does not decode, the step is the error entry; when no word is offered,
the block holds its state (R60, R71, R72, R83, R225). -/
def Obligations.StepRunsTheDecodedCommand : Prop :=
  (∀ (s : State) (w : Word) (ws : List Word), s.halted = false → s.phase = .idle → s.cmdIn = w :: ws →
    (∀ i, decode w = .ok i → step s = exec i { s with cmdIn := ws }) ∧
      (∀ e, decode w = .error e → step s = .next (State.raiseError { s with cmdIn := ws } (decodeErrorCode e) w))) ∧
    ∀ s : State, s.halted = false → s.phase = .idle → s.cmdIn = [] → step s = .next s

/-- Every command that fails its check takes the error entry with its own word and no other effect (R213, R216).
That its word is `encode i` is the model's reading (log entry 12). -/
def Obligations.RejectedCommandHasNoEffect : Prop :=
  ∀ (i : Instr) (s : State), s.halted = false → check i s.init ≠ .none →
    exec i s = .next { s with
      err := true, errCode := check i s.init, errCmd := encode i, phase := .halt, busy := false }

/-- R24: SINIT sets INIT; a reset edge clears it; no other command and no other clock edge changes it; while it is 0 every
command that reads or writes A fails with NOT_INIT. -/
def Obligations.InitIsSetBySinitAlone : Prop :=
  (∀ s : State, s.halted = false → ∃ t, exec .sinit s = .next t ∧ t.init = true) ∧
    (∀ (i : Instr) (s t : State), i ≠ .sinit → exec i s = .next t → t.init = s.init) ∧
    (∀ (p : PortsIn) (advance : Bool) (s : State), (p.rst = true → (clock p advance s).init = false) ∧
      (p.rst = false → (clock p advance s).init ≠ s.init → s.latched = some .sinit ∧ s.phase = .exec)) ∧
    (∀ (i : Instr) (s : State), s.halted = false → s.init = false → needsInit i = true → rangeCheck i = .none →
      ∃ t, exec i s = .next t ∧ t.err = true ∧ t.errCode = .notInit ∧ t.lanes = s.lanes) ∧
    ∀ i : Instr, needsInit i = true ↔
      i = .perm ∨ (∃ l o n, i = .xorb l o n ∨ i = .extb l o n) ∨ (∃ n, i = .xorl n ∨ i = .extl n ∨ i = .cbit n) ∨
        ∃ n m, i = .xpe n m

/-- R84: the framing table, and that a performed command takes exactly Nin DIN bytes and gives exactly Nout DOUT bytes,
while a rejected one takes and gives none. -/
def Obligations.FramingIsFixedByTheCommand : Prop :=
  ((nin .cinit = 0 ∧ nout .cinit = 0) ∧ (nin .sinit = 0 ∧ nout .sinit = 0) ∧ (nin .perm = 0 ∧ nout .perm = 0) ∧
    (∀ l o n, nin (.xorb l o n) = n ∧ nout (.xorb l o n) = 0 ∧ nin (.extb l o n) = 0 ∧ nout (.extb l o n) = n) ∧
    (∀ n, nin (.xorl n) = 8 * n ∧ nout (.xorl n) = 0 ∧ nin (.extl n) = 0 ∧ nout (.extl n) = 8 * n ∧
      nin (.cbit n) = 0 ∧ nout (.cbit n) = 0 ∧ nin (.rdrc n) = 0 ∧ nout (.rdrc n) = 8 ∧
      nin (.rdrho n) = 0 ∧ nout (.rdrho n) = 1) ∧
    (∀ n m, nin (.xpe n m) = 8 * n ∧ nout (.xpe n m) = 8 * m)) ∧
    ∀ (i : Instr) (s : State), s.halted = false →
      (check i s.init = .none → nin i ≤ s.dinIn.length →
        ∃ t out, exec i s = .next t ∧ t.dinIn = s.dinIn.drop (nin i) ∧ out.length = nout i ∧
          t.doutOut = s.doutOut ++ out) ∧
      (check i s.init ≠ .none → ∃ t, exec i s = .next t ∧ t.dinIn = s.dinIn ∧ t.doutOut = s.doutOut)

/-- A command with too few DIN bytes offered puts the block in phase DIN with what there is, BUSY, with none of its
effect, and the block then waits on, step after step (R72, R226). That one step takes all the bytes there are is the
model's choice (log entry 3). The last clause, what a step does to a waiting command, is the model's reading (log
entry 18), and that the working registers are not written is its choice (log entry 9). -/
def Obligations.StarvedCommandWaits : Prop :=
  ∀ (i : Instr) (s : State), s.halted = false → check i s.init = .none → s.dinIn.length < nin i →
    ∃ t, exec i s = .next t ∧ t.phase = .din ∧ t.busy = true ∧ t.dinBuf = s.dinIn ∧ t.dinIn = [] ∧
      t.lanes = s.lanes ∧ t.init = s.init ∧ t.err = s.err ∧ t.doutOut = s.doutOut ∧ t.engine = s.engine ∧
      step t = .next t

/-- DIN bytes that come late complete a waiting command exactly as if they had been offered with it (R72, R226). What a
step does to a waiting command is the model's reading (log entry 18). -/
def Obligations.LateBytesCompleteTheCommand : Prop :=
  ∀ (i : Instr) (s t : State) (more : List Byte), check i s.init = .none → s.dinIn.length < nin i →
    exec i s = .next t → step { t with dinIn := more } = exec i { s with dinIn := s.dinIn ++ more }

/-! ## What each command does -/

/-- CINIT completes in every state but a halted one, INIT = 1 or not, and changes no lane and no status (R107). No
rule says these clauses, which are the model's choice: that the idle block's latched word is that of the command and
its DIN buffer is empty (in `Finished`; log entries 12, 20 and 23), and that the working registers are not written
(log entry 9). -/
def Obligations.CinitDoesNothing : Prop :=
  ∀ s : State, s.halted = false →
    ∃ t, exec .cinit s = .next t ∧ State.Finished .cinit s t ∧ t.lanes = s.lanes ∧ t.init = s.init ∧
      t.engine = s.engine ∧ t.doutOut = s.doutOut

/-- SINIT completes in every state but a halted one: every lane is 0 and INIT is 1 (R140). No rule says these clauses,
which are the model's choice: that the idle block's latched word is that of the command and its DIN buffer is empty
(in `Finished`; log entries 12, 20 and 23), and that the working registers are not written (log entry 9). -/
def Obligations.SinitClearsTheState : Prop :=
  ∀ s : State, s.halted = false →
    ∃ t, exec .sinit s = .next t ∧ State.Finished .sinit s t ∧ (∀ l < 25, laneAt t.lanes l = 0) ∧ t.init = true ∧
      t.engine = s.engine ∧ t.doutOut = s.doutOut

/-- XORB: each state byte of the named range is XORed with its DIN byte, and every other byte of the 200 is unchanged
(R141, R51, R85). No rule says these clauses, which are the model's choice: that the idle block's latched word is that
of the command and its DIN buffer is empty (in `Finished`; log entries 12, 20 and 23), and that the working registers
are not written (log entry 9). -/
def Obligations.XorbXorsTheNamedBytes : Prop :=
  ∀ (lane off len : Nat) (s : State), lane ≤ 24 → off + len ≤ 8 → s.init = true → s.halted = false →
    len ≤ s.dinIn.length →
    ∃ t, exec (.xorb lane off len) s = .next t ∧ State.Finished (.xorb lane off len) s t ∧
      (∀ j < 200, stateByte t.lanes j =
        if 8 * lane + off ≤ j ∧ j < 8 * lane + off + len
        then stateByte s.lanes j ^^^ s.dinIn.getD (j - (8 * lane + off)) 0 else stateByte s.lanes j) ∧
      t.init = s.init ∧ t.engine = s.engine ∧ t.doutOut = s.doutOut

/-- XORL: state byte k below 8n is XORed with DIN byte k, and every other byte of the 200 is unchanged (R142, R51,
R85). No rule says these clauses, which are the model's choice: that the idle block's latched word is that of the
command and its DIN buffer is empty (in `Finished`; log entries 12, 20 and 23), and that the working registers are not
written (log entry 9). -/
def Obligations.XorlXorsTheLeadingBytes : Prop :=
  ∀ (n : Nat) (s : State), n ≤ 25 → s.init = true → s.halted = false → 8 * n ≤ s.dinIn.length →
    ∃ t, exec (.xorl n) s = .next t ∧ State.Finished (.xorl n) s t ∧
      (∀ j < 200, stateByte t.lanes j =
        if j < 8 * n then stateByte s.lanes j ^^^ s.dinIn.getD j 0 else stateByte s.lanes j) ∧
      t.init = s.init ∧ t.engine = s.engine ∧ t.doutOut = s.doutOut

/-- CBIT: bit p of the 1600 is flipped and every other bit is unchanged (R143, R52). No rule says these clauses, which
are the model's choice: that the idle block's latched word is that of the command and its DIN buffer is empty (in
`Finished`; log entries 12, 20 and 23), and that the working registers are not written (log entry 9). -/
def Obligations.CbitFlipsOneBit : Prop :=
  ∀ (p : Nat) (s : State), p ≤ 1599 → s.init = true → s.halted = false →
    ∃ t, exec (.cbit p) s = .next t ∧ State.Finished (.cbit p) s t ∧
      (∀ q < 1600, stateBit t.lanes q = if q = p then !stateBit s.lanes q else stateBit s.lanes q) ∧
      t.init = s.init ∧ t.engine = s.engine ∧ t.doutOut = s.doutOut

/-- PERM: A becomes KeccakF(A) (R128). No rule says that the idle block's latched word is that of the command and its
DIN buffer is empty (in `Finished`): it is the model's choice (log entries 12, 20 and 23). -/
def Obligations.PermAppliesKeccakF : Prop :=
  ∀ s : State, s.init = true → s.halted = false →
    ∃ t, exec .perm s = .next t ∧ State.Finished .perm s t ∧ t.lanes = keccakF s.lanes ∧ t.init = s.init ∧
      t.doutOut = s.doutOut

/-- EXTB gives the `len` state bytes from byte 8·lane + off up, and changes no lane (R144, R51, R86, R148). No rule
says these clauses, which are the model's choice: that the idle block's latched word is that of the command and its
DIN buffer is empty (in `Finished`; log entries 12, 20 and 23), and that the working registers are not written (log
entry 9). -/
def Obligations.ExtbGivesTheNamedBytes : Prop :=
  ∀ (lane off len : Nat) (s : State), lane ≤ 24 → off + len ≤ 8 → s.init = true → s.halted = false →
    ∃ t, exec (.extb lane off len) s = .next t ∧ State.Finished (.extb lane off len) s t ∧
      t.doutOut = s.doutOut ++ (List.range len).map (fun k => stateByte s.lanes (8 * lane + off + k)) ∧
      t.lanes = s.lanes ∧ t.init = s.init ∧ t.engine = s.engine

/-- EXTL gives state bytes 0 to 8n - 1 in order, and changes no lane (R145, R51, R86, R148). No rule says these
clauses, which are the model's choice: that the idle block's latched word is that of the command and its DIN buffer is
empty (in `Finished`; log entries 12, 20 and 23), and that the working registers are not written (log entry 9). -/
def Obligations.ExtlGivesTheLeadingBytes : Prop :=
  ∀ (n : Nat) (s : State), n ≤ 25 → s.init = true → s.halted = false →
    ∃ t, exec (.extl n) s = .next t ∧ State.Finished (.extl n) s t ∧
      t.doutOut = s.doutOut ++ (List.range (8 * n)).map (stateByte s.lanes) ∧
      t.lanes = s.lanes ∧ t.init = s.init ∧ t.engine = s.engine

/-- XPE: the lanes with nin DIN lanes XORed in are permuted, and state bytes 0 to 8·nout - 1 of the result are given
(R146, R85, R86). No rule says that the idle block's latched word is that of the command and its DIN buffer is empty
(in `Finished`): it is the model's choice (log entries 12, 20 and 23). -/
def Obligations.XpeXorsPermutesExtracts : Prop :=
  ∀ (n m : Nat) (s : State), n ≤ 25 → m ≤ 25 → s.init = true → s.halted = false → 8 * n ≤ s.dinIn.length →
    ∃ (t : State) (a : Lanes), exec (.xpe n m) s = .next t ∧ State.Finished (.xpe n m) s t ∧
      (∀ j < 200, stateByte a j =
        if j < 8 * n then stateByte s.lanes j ^^^ s.dinIn.getD j 0 else stateByte s.lanes j) ∧
      t.lanes = keccakF a ∧ t.doutOut = s.doutOut ++ (List.range (8 * m)).map (stateByte t.lanes) ∧ t.init = s.init

/-- RDRC completes for every index 0..23, INIT = 1 or not, and gives RC[r] least significant byte first (R108). No
rule says these clauses, which are the model's choice: that the idle block's latched word is that of the command and
its DIN buffer is empty (in `Finished`; log entries 12, 20 and 23), and that the working registers are not written
(log entry 9). -/
def Obligations.RdrcGivesTheRoundConstant : Prop :=
  ∀ (r : Nat) (s : State), r ≤ 23 → s.halted = false →
    ∃ t, exec (.rdrc r) s = .next t ∧ State.Finished (.rdrc r) s t ∧
      t.doutOut = s.doutOut ++ (List.range 8).map (byteOf (rcDerived r)) ∧
      t.lanes = s.lanes ∧ t.init = s.init ∧ t.engine = s.engine

/-- RDRHO completes for every index 0..24, INIT = 1 or not, and gives one byte, RHO[i] (R109). No rule says these
clauses, which are the model's choice: that the idle block's latched word is that of the command and its DIN buffer is
empty (in `Finished`; log entries 12, 20 and 23), and that the working registers are not written (log entry 9). -/
def Obligations.RdrhoGivesTheRotationOffset : Prop :=
  ∀ (i : Nat) (s : State), (h : i < 25) → s.halted = false →
    ∃ t, exec (.rdrho i) s = .next t ∧ State.Finished (.rdrho i) s t ∧
      t.doutOut = s.doutOut ++ [BitVec.ofNat 8 rhoDerived[i]] ∧ rhoDerived[i] < 64 ∧
      t.lanes = s.lanes ∧ t.init = s.init ∧ t.engine = s.engine

/-- XPE nin, nout is observationally XORL nin, PERM, EXTL nout: run one after the other they answer next states, and
XPE answers the last of them but for the latched command word (R146). That the working registers agree too rests on
log entry 10. That the idle block's latched word is `encode (.xpe n m)` and its DIN buffer is empty rests on log
entries 12, 20 and 23. -/
def Obligations.XpeEqualsTheThreeCommands : Prop :=
  ∀ (n m : Nat) (s : State), n ≤ 25 → m ≤ 25 → s.init = true → s.halted = false → 8 * n ≤ s.dinIn.length →
    ∃ a b c, exec (.xorl n) s = .next a ∧ exec .perm a = .next b ∧ exec (.extl m) b = .next c ∧
      exec (.xpe n m) s = .next { c with cmdWord := encode (.xpe n m) }

/-- XORL n then EXTL n on an all-zero state gives back the DIN data, for every n in 0..25; and so do XORB then EXTB with
the same operands (R150). -/
def Obligations.XorThenExtractGivesTheData : Prop :=
  (∀ (n : Nat) (s : State) (data rest : List Byte), n ≤ 25 → s.halted = false → data.length = 8 * n →
    s.dinIn = data ++ rest →
    ∃ a b c, exec .sinit s = .next a ∧ exec (.xorl n) a = .next b ∧ exec (.extl n) b = .next c ∧
      c.doutOut = s.doutOut ++ data ∧ c.dinIn = rest) ∧
    ∀ (lane off : Nat) (s : State) (data rest : List Byte), lane ≤ 24 → off + data.length ≤ 8 → s.halted = false →
      s.dinIn = data ++ rest →
      ∃ a b c, exec .sinit s = .next a ∧ exec (.xorb lane off data.length) a = .next b ∧
        exec (.extb lane off data.length) b = .next c ∧ c.doutOut = s.doutOut ++ data ∧ c.dinIn = rest

/-- R148: extraction leaves A and R unchanged, and two extractions with nothing between them give the same bytes. -/
def Obligations.ExtractionChangesNothing : Prop :=
  (∀ (lane off len : Nat) (s t : State), exec (.extb lane off len) s = .next t → t.lanes = s.lanes ∧ t.raw = s.raw) ∧
    (∀ (n : Nat) (s t : State), exec (.extl n) s = .next t → t.lanes = s.lanes ∧ t.raw = s.raw) ∧
    ∀ (i : Instr) (s : State), (∃ n, i = .extl n) ∨ (∃ l o n, i = .extb l o n) → s.halted = false →
      check i s.init = .none →
      ∃ t u out, exec i s = .next t ∧ exec i t = .next u ∧ t.doutOut = s.doutOut ++ out ∧ u.doutOut = t.doutOut ++ out

/-- CBIT p changes the lanes as XORB of the one byte with that bit does (R143's corner case, R52). -/
def Obligations.CbitIsXorbOfOneByte : Prop :=
  ∀ (p : Nat) (s : State) (rest : List Byte), p ≤ 1599 → s.init = true → s.halted = false →
    s.dinIn = (1 <<< (p % 8) : Byte) :: rest →
    ∃ t u, exec (.cbit p) s = .next t ∧ exec (.xorb (p / 64) (p % 64 / 8) 1) s = .next u ∧ t.lanes = u.lanes

/-! ## Frames, over every next state, the error entry and the wait for DIN among them -/

/-- CINIT, EXTB, EXTL, RDRC and RDRHO leave every lane, INIT, the working registers and the host's other queues
unchanged, whatever next state they answer (R58, R107, R108, R109, R148). That the working registers are not written
is no rule's: it is the model's choice (log entry 9). -/
def Obligations.FrameOfCommandsThatWriteNoLane : Prop :=
  ∀ (i : Instr) (s t : State),
    i = .cinit ∨ (∃ l o n, i = .extb l o n) ∨ (∃ n, i = .extl n ∨ i = .rdrc n ∨ i = .rdrho n) →
    exec i s = .next t →
    (∀ j < 200, stateByte t.lanes j = stateByte s.lanes j) ∧ t.init = s.init ∧ t.engine = s.engine ∧
      t.dinIn = s.dinIn ∧ t.cmdIn = s.cmdIn ∧ t.draws = s.draws

/-- XORB, XORL and CBIT leave every state byte outside the bytes they store to unchanged, and INIT, the working
registers and the DOUT bytes, whatever next state they answer (R141 to R143, R30). That the working registers are not
written is no rule's: it is the model's choice (log entry 9). -/
def Obligations.FrameOfXorCommands : Prop :=
  (∀ (lane off len : Nat) (s t : State), exec (.xorb lane off len) s = .next t →
    (∀ j < 200, ¬(8 * lane + off ≤ j ∧ j < 8 * lane + off + len) → stateByte t.lanes j = stateByte s.lanes j) ∧
      t.init = s.init ∧ t.engine = s.engine ∧ t.doutOut = s.doutOut ∧ t.cmdIn = s.cmdIn ∧ t.draws = s.draws) ∧
    (∀ (n : Nat) (s t : State), exec (.xorl n) s = .next t →
      (∀ j < 200, 8 * n ≤ j → stateByte t.lanes j = stateByte s.lanes j) ∧
        t.init = s.init ∧ t.engine = s.engine ∧ t.doutOut = s.doutOut ∧ t.cmdIn = s.cmdIn ∧ t.draws = s.draws) ∧
    ∀ (p : Nat) (s t : State), exec (.cbit p) s = .next t →
      (∀ j < 200, j ≠ p / 8 → stateByte t.lanes j = stateByte s.lanes j) ∧
        t.init = s.init ∧ t.engine = s.engine ∧ t.doutOut = s.doutOut ∧ t.dinIn = s.dinIn ∧ t.cmdIn = s.cmdIn ∧
        t.draws = s.draws

/-- SINIT, PERM and XPE leave the host's command queue unchanged, PERM and SINIT the DIN and DOUT queues too, PERM and
XPE INIT, and SINIT the working registers, whatever next state they answer (R21, R56). That SINIT does not write the
working registers is no rule's: it is the model's choice (log entry 9). -/
def Obligations.FrameOfCommandsThatWriteEveryLane : Prop :=
  (∀ s t : State, exec .sinit s = .next t →
    t.engine = s.engine ∧ t.dinIn = s.dinIn ∧ t.doutOut = s.doutOut ∧ t.cmdIn = s.cmdIn ∧ t.draws = s.draws) ∧
    (∀ s t : State, exec .perm s = .next t →
      t.init = s.init ∧ t.dinIn = s.dinIn ∧ t.doutOut = s.doutOut ∧ t.cmdIn = s.cmdIn ∧ t.draws = s.draws) ∧
    ∀ (n m : Nat) (s t : State), exec (.xpe n m) s = .next t →
      t.init = s.init ∧ t.cmdIn = s.cmdIn ∧ t.draws = s.draws ∧ (t.err = true → t.lanes = s.lanes)

/-- No command writes ERR, ERR_CODE or ERR_CMD but by the error entry, and none clears ERR (R25 to R27, R30). That a
rejected command's word is `encode i` is the model's reading (log entry 12). -/
def Obligations.OnlyTheErrorEntryWritesTheErrorRegisters : Prop :=
  ∀ (i : Instr) (s t : State), exec i s = .next t →
    (t.err = s.err ∧ t.errCode = s.errCode ∧ t.errCmd = s.errCmd) ∨
      (check i s.init ≠ .none ∧ t.err = true ∧ t.errCode = check i s.init ∧ t.errCmd = encode i ∧
        t.lanes = s.lanes ∧ t.init = s.init ∧ t.dinIn = s.dinIn ∧ t.doutOut = s.doutOut)

/-- The layout of the status word, bit by bit; its reserved bits read 0 (R29). -/
def Obligations.StatusWordLayout : Prop :=
  ∀ s : State, s.statusWord.getLsbD 0 = s.busy ∧ s.statusWord.getLsbD 1 = s.init ∧ s.statusWord.getLsbD 2 = s.err ∧
    s.statusWord.getLsbD 3 = false ∧ field s.statusWord 4 4 = s.errCode.bits.toNat ∧ field s.statusWord 8 24 = 0 ∧
    (s.ports false).status = s.statusWord ∧ (s.ports false).errCmd = s.errCmd

/-! ## Constants -/

/-- R100: the LFSR step, and the register's period of 255 steps from 0x01. -/
def Obligations.LfsrStepAndPeriod : Prop :=
  (∀ l : Byte, (lfsrStep l).1 = l.getLsbD 0 ∧
    (lfsrStep l).2 = if l.getLsbD 7 then (l <<< 1) ^^^ 0x71 else l <<< 1) ∧
    (fun l : Byte => (lfsrStep l).2)^[255] 0x01 = 0x01 ∧
    ∀ n ∈ List.range 255, n ≠ 0 → (fun l : Byte => (lfsrStep l).2)^[n] 0x01 ≠ 0x01

/-- R101, R102: the round-constant table is what the LFSR derives, and has bits only at positions 0, 1, 3, 7, 15, 31, 63. -/
def Obligations.RoundConstantsAreTheLfsrs : Prop :=
  (∀ r < 24, rc r = rcDerived r) ∧
    ∀ r < 24, ∀ b < 64, (rc r).getLsbD b = true → b ∈ [0, 1, 3, 7, 15, 31, 63]

/-- R105, R106: the rotation-offset table is what the orbit of R104 assigns, with every offset in 0..63; the positions the
orbit visits, its return to the start, every non-origin position visited exactly once, and the untruncated offsets. -/
def Obligations.RotationOffsetsFollowTheOrbit : Prop :=
  rhoTable = rhoDerived ∧ (∀ i < 25, rhoOffset i < 64) ∧
    (List.range 24).map orbitAt =
    [(1, 0), (0, 2), (2, 1), (1, 2), (2, 3), (3, 3), (3, 0), (0, 1), (1, 3), (3, 1), (1, 4), (4, 4),
     (4, 0), (0, 3), (3, 4), (4, 3), (3, 2), (2, 2), (2, 0), (0, 4), (4, 2), (2, 4), (4, 1), (1, 1)] ∧
    orbitAt 24 = (1, 0) ∧
    (∀ i : Fin 25, ((List.range 24).filter fun t => idx (orbitAt t).1 (orbitAt t).2 = i).length = if i = 0 then 0 else 1) ∧
    (List.range 24).map (fun t => (t + 1) * (t + 2) / 2) =
      [1, 3, 6, 10, 15, 21, 28, 36, 45, 55, 66, 78, 91, 105, 120, 136, 153, 171, 190, 210, 231, 253, 276, 300]

/-- Under either source (R103) the engine uses RC[r] in round r; and the LFSR register at the start of the 24 rounds.
The arrangement of the engine is the model's choice (log entry 9). -/
def Obligations.EitherSourceGivesTheRoundConstants : Prop :=
  (∀ (src : RcSource) (a : Lanes) (e : Engine), ∀ r < 24,
    (Engine.roundConstant src (Engine.runRounds src r (e.load src a))).1 = rc r) ∧
    (∀ (a : Lanes) (e : Engine), ∀ r < 24, (Engine.runRounds .lfsr r (e.load .lfsr a)).lfsr = lfsrAt r) ∧
    (List.range 24).map lfsrAt =
      [0x01, 0x80, 0xD8, 0x1A, 0xDF, 0x09, 0x35, 0x4F, 0xCA, 0x70, 0x41, 0xEC,
       0xD5, 0xCD, 0x63, 0xAB, 0xAA, 0x2A, 0xF2, 0xE8, 0x37, 0x3E, 0x0B, 0x44]

/-! ## The permutation -/

/-- A rotation moves bit (j - k) mod w to bit j, for every amount, 0 and the full width among them (R11, C5). -/
def Obligations.RotationMovesEveryBit : Prop :=
  ∀ (w : Nat) (v : BitVec w) (k j : Nat), j < w → (rotl v k).getLsbD j = v.getLsbD ((j + (w - k % w)) % w)

/-- R120, R121, R123, R124: theta, rho, chi and iota at every position (x, y). -/
def Obligations.RoundStepsAtEveryPosition : Prop :=
  ∀ (a : Lanes) (x y : Nat), x < 5 → y < 5 →
    (theta a)[idx x y] = a[idx x y] ^^^
      (rotl (a[idx (x+1) 0] ^^^ a[idx (x+1) 1] ^^^ a[idx (x+1) 2] ^^^ a[idx (x+1) 3] ^^^ a[idx (x+1) 4]) 1 ^^^
        (a[idx (x+4) 0] ^^^ a[idx (x+4) 1] ^^^ a[idx (x+4) 2] ^^^ a[idx (x+4) 3] ^^^ a[idx (x+4) 4])) ∧
      (rho a)[idx x y] = rotl a[idx x y] (rhoOffset (idx x y)) ∧ rhoOffset (idx x y) < 64 ∧ (rho a)[idx 0 0] = a[idx 0 0] ∧
      (chi a)[idx x y] = a[idx x y] ^^^ (~~~ a[idx (x+1) y] &&& a[idx (x+2) y]) ∧
      ∀ r, (iota a r)[idx x y] = if x = 0 ∧ y = 0 then a[idx x y] ^^^ rc r else a[idx x y]

/-- R122: pi moves the lane at (x, y) to (y, 2x + 3y), the map is onto, lane 0 stays and the other 24 lanes all move; and
the gather table PI_SRC. -/
def Obligations.PiMovesEveryLane : Prop :=
  (∀ (a : Lanes) (x y : Nat), x < 5 → y < 5 → (pi a)[idx y (2 * x + 3 * y)] = a[idx x y]) ∧
    (∀ j : Fin 25, ∃ x < 5, ∃ y < 5, idx y (2 * x + 3 * y) = j) ∧
    (∀ j : Fin 25, piSrc j = j ↔ j = 0) ∧
    (List.finRange 25).map (fun j => (piSrc j).val) =
      [0, 6, 12, 18, 24, 3, 9, 10, 16, 22, 1, 7, 13, 19, 20, 4, 5, 11, 17, 23, 2, 8, 14, 15, 21]

/-- The engine's registers, stepped round by round from any contents and with either source of the round constants, hold
KeccakF of the lanes they were loaded with; and under LFSR the register ends at 0x8E (R103, R125 to R127, R129; V1.1).
The arrangement of the registers is the model's choice (log entry 9). -/
def Obligations.EngineComputesKeccakF : Prop :=
  ∀ (src : RcSource) (a : Lanes) (e : Engine),
    (Engine.runRounds src 24 (e.load src a)).stage = keccakF a ∧ (e.permute src a).stage = keccakF a ∧
      (src = .lfsr → (e.permute src a).lfsr = 0x8E)

/-! ## The raw forms -/

/-- R171: de-interleaving is the inverse of interleaving, both ways. -/
def Obligations.InterleavingIsABijection : Prop :=
  (∀ l : Lane, dilv (ilv l) = l) ∧ (∀ p : Half × Half, ilv (dilv p) = p) ∧
    ∀ (p : Half × Half) (j : Nat), j < 32 →
      (dilv p).getLsbD (2 * j) = p.1.getLsbD j ∧ (dilv p).getLsbD (2 * j + 1) = p.2.getLsbD j

/-- R172: interleaving commutes with the bitwise operations half by half, and byte k of a lane maps to bits 4k+3..4k. -/
def Obligations.InterleavingCommutesWithBitwise : Prop :=
  (∀ a b : Lane, ilv (a ^^^ b) = ((ilv a).1 ^^^ (ilv b).1, (ilv a).2 ^^^ (ilv b).2) ∧
    ilv (a &&& b) = ((ilv a).1 &&& (ilv b).1, (ilv a).2 &&& (ilv b).2) ∧
    ilv (a ||| b) = ((ilv a).1 ||| (ilv b).1, (ilv a).2 ||| (ilv b).2) ∧
    ilv (~~~a) = (~~~(ilv a).1, ~~~(ilv a).2)) ∧
    ilv 0 = (0, 0) ∧ ilv 0xFFFFFFFFFFFFFFFF = (0xFFFFFFFF, 0xFFFFFFFF) ∧
    ∀ (l : Lane) (k j : Nat), k < 8 → j < 4 →
      (ilv l).1.getLsbD (4 * k + j) = (byteOf l k).getLsbD (2 * j) ∧
        (ilv l).2.getLsbD (4 * k + j) = (byteOf l k).getLsbD (2 * j + 1)

/-- R174: the rotation done on the halves is the 64-bit rotation, for every amount 0..63. -/
def Obligations.HalvesRotateAsTheLane : Prop :=
  (∀ (p : Half × Half) (k : Nat), k < 64 → ilvRotl p k =
    if k % 2 = 0 then (rotl p.1 (k / 2), rotl p.2 (k / 2)) else (rotl p.2 ((k + 1) / 2), rotl p.1 ((k - 1) / 2))) ∧
    ∀ (l : Lane) (k : Nat), k < 64 → dilv (ilvRotl (ilv l) k) = rotl l k

/-- R176, R177: the interleaved constants are Ilv of the round constants, and the interleaved rho amounts are those rule
R174 gives for each offset. -/
def Obligations.InterleavedTablesAreDerived : Prop :=
  (∀ r < 24, rci r = ilv (rc r)) ∧
    ∀ i : Fin 25, rhoHalvesTable[i] =
      if rhoOffset i % 2 = 0 then ⟨false, rhoOffset i / 2, rhoOffset i / 2⟩
      else ⟨true, (rhoOffset i + 1) / 2, (rhoOffset i - 1) / 2⟩

/-- Dec is the inverse of Enc in all four builds; and the form and order of the raw array (R32, R33, R175, R191). -/
def Obligations.DecodingTheRawFormGivesTheLanes : Prop :=
  ∀ (p : BuildParams) (a : Lanes), dec p (enc p a) = a ∧
    (p.interleave = false → ∃ v : Lanes, enc p a = .whole v ∧
      ∀ i : Fin 25, v[i] = a[i] ^^^ complementMask 64 p.complement i) ∧
    (p.interleave = true → ∃ h : HalfArray, enc p a = .halves h ∧
      ∀ (i : Nat) (hi : i < 25),
        h[2 * i] = ilvEven (a[i] ^^^ complementMask 64 p.complement i) ∧
          h[2 * i + 1] = ilvOdd (a[i] ^^^ complementMask 64 p.complement i))

/-- R195: theta, rho and pi are linear with no constant, and carry the mask of S to the sets R195 lists. -/
def Obligations.MasksMoveThroughTheLinearSteps : Prop :=
  (∀ a b : Lanes,
    let x : Lanes := Vector.ofFn fun i : Fin 25 => a[i] ^^^ b[i]
    (theta x) = Vector.ofFn (fun i : Fin 25 => (theta a)[i] ^^^ (theta b)[i]) ∧
      (rho x) = Vector.ofFn (fun i : Fin 25 => (rho a)[i] ^^^ (rho b)[i]) ∧
      (pi x) = Vector.ofFn (fun i : Fin 25 => (pi a)[i] ^^^ (pi b)[i])) ∧
    ∀ a : Lanes,
      theta (maskLanes complementSet a) = maskLanes [0, 1, 2, 3, 5, 10, 12, 13, 15, 17, 18, 23] (theta a) ∧
        rho (theta (maskLanes complementSet a)) =
          maskLanes [0, 1, 2, 3, 5, 10, 12, 13, 15, 17, 18, 23] (rho (theta a)) ∧
        pi (rho (theta (maskLanes complementSet a))) = maskLanes chiInputSet (pi (rho (theta a)))

/-- The chi table, on lanes that carry the mask of M_in, gives the logical chi output complemented exactly on S; on whole
lanes and on half-lanes alike (R196). -/
def Obligations.ComplementedChiIsChi : Prop :=
  ∀ (w : Nat) (a : Vector (BitVec w) 25),
    chiComplement (Vector.ofFn fun i : Fin 25 => a[i] ^^^ maskOf w chiInputSet i) =
      Vector.ofFn fun i : Fin 25 => (chi a)[i] ^^^ maskOf w complementSet i

/-- One round on the raw form is the logical round, in all four builds (R178, R195 to R198). -/
def Obligations.RawRoundIsTheRound : Prop :=
  ∀ (p : BuildParams) (a : Lanes) (r : Nat), r < 24 → rawRound p r (enc p a) = enc p (keccakRound a r)

/-- The equivalence requirement: in all four builds, every legal command on the raw form leaves Enc of the lanes the logical
command leaves, and gives the same DOUT bytes, for every state and DIN data (R179, R180, R200). -/
def Obligations.EveryCommandAgreesOnTheRawForm : Prop :=
  ∀ (p : BuildParams) (i : Instr) (s : State), rangeCheck i = .none → s.doutPend = [] → s.dinBuf.length = nin i →
    rawCommand p s.dinBuf (enc p s.lanes) i = (enc p (effectOf i s).lanes, (effectOf i s).doutPend)

/-! ## Reset and invariants -/

/-- The reset values the spec gives (R35, R240), at `State.reset` and after a reset edge from any state; no channel is
ready or valid while rst = 1; and R242 whole: the ports in the first cycle after the reset. -/
def Obligations.ResetValues : Prop :=
  (State.reset.init = false ∧ State.reset.err = false ∧ State.reset.errCode = .none ∧ State.reset.errCmd = 0 ∧
    State.reset.busy = false ∧ State.reset.phase = .idle ∧ State.reset.dinBuf = [] ∧ State.reset.doutPend = []) ∧
    ∀ (p : PortsIn) (advance : Bool) (s : State), p.rst = true →
      ((clock p advance s).init = false ∧ (clock p advance s).err = false ∧ (clock p advance s).errCode = .none ∧
        (clock p advance s).errCmd = 0 ∧ (clock p advance s).busy = false ∧ (clock p advance s).phase = .idle ∧
        (clock p advance s).dinBuf = [] ∧ (clock p advance s).doutPend = []) ∧
      ((s.ports true).cmdReady = false ∧ (s.ports true).dinReady = false ∧ (s.ports true).dout = none) ∧
      ((clock p advance s).ports false).cmdReady = true ∧ ((clock p advance s).ports false).status = 0x00000000 ∧
      ((clock p advance s).ports false).errCmd = 0x00000000

/-- The state after reset meets the invariant of the step and that of the clock, as does every state after a reset
edge. What the invariants say of the DIN buffer in EXEC and of the working registers is the model's choice (log
entries 9 and 23). -/
def Obligations.ResetMeetsTheInvariants : Prop :=
  State.reset.Inv ∧ State.reset.ClockInv ∧ ∀ s : State, s.resetEdge.ClockInv

/-- From every state that meets the invariant, a step that answers a next state gives one that meets it (R25 to R28,
R72). What the invariant says of the DIN and DOUT buffers outside the phases DIN and DOUT is the model's choice (log
entry 23). -/
def Obligations.StepKeepsTheInvariant : Prop :=
  ∀ s t : State, s.Inv → step s = .next t → t.Inv

/-- From every state that meets the clock's invariant, every clock edge, whatever the ports carry and whether the
pipeline moves, gives one that meets it (R34, R72, R240). What the invariant says of the working registers in the
middle of a permutation is about the model's arrangement of them (log entry 9). What it says of the DIN and DOUT
buffers outside the phases DIN and DOUT is the model's choice (log entry 23). -/
def Obligations.ClockKeepsItsInvariant : Prop :=
  ∀ (p : PortsIn) (advance : Bool) (s : State), s.ClockInv → (clock p advance s).ClockInv

/-- The atomic step is what the clocked block does: at a cmd transfer the clocked state comes to stand for the step's
next state, and no later cycle, whatever the host and the pipeline do in it, changes what it stands for (R60, R72).
When the engine is loaded and what it holds is the model's choice (log entries 9 and 10), as is what a state in
mid-command stands for (log entry 18). The DIN buffer of a block that has finished is empty by the model's choice (log
entry 23). -/
def Obligations.ClockRefinesTheStep : Prop :=
  ∀ (m : Move) (s : State), s.ClockInv →
    (s.phase = .idle → s.err = false → m.cmd = true → s.cmdIn ≠ [] → step s = .next (tick m s).settled) ∧
      ((s.phase ≠ .idle ∨ m.cmd = false ∨ s.cmdIn = []) → (tick m s).settled = s.settled)

/-- With a host that keeps offering and taking, and a pipeline that moves, the clocked block reaches the step's next
state in finitely many cycles, unless the command was given too few DIN bytes (R72, R226, R252). The equality of the
whole states takes in the working registers, whose arrangement is the model's choice (log entries 9 and 10), and the
latched word (log entry 20). So is the empty DIN buffer at the end (log entry 23). -/
def Obligations.CommandsFinishInFinitelyManyCycles : Prop :=
  ∀ s t : State, s.ClockInv → s.phase = .idle → s.cmdIn ≠ [] → step s = .next t → t.phase ≠ .din →
    ∃ n, ticks ⟨true, true, true, true⟩ n s = t

/-- What A holds before SINIT, and what the working registers hold at any time, is never seen: two states that differ in
nothing else answer steps of the same kind, and next states that again differ in nothing else (R24, R33 to R35, U4). -/
def Obligations.UninitialisedStateIsNeverSeen : Prop :=
  ∀ s t : State, s.sameToHost t →
    (∀ s', step s = .next s' → ∃ t', step t = .next t' ∧ s'.sameToHost t') ∧
      (∀ f, step s = .fault f → step t = .fault f) ∧ ∀ r, step s ≠ .refused r
end

