-- ==== Sys2Proof/Laws/Decode.lean ====
section
/-! SUPPORT. Bits of fields and of placed operands, and the opcode table's row of each command's words. -/

namespace Sys2Proof

/-- The bits of a field. -/
@[simp] theorem testBit_field (w : Word) (lsb width j : Nat) :
    (field w lsb width).testBit j = (decide (j < width) && w.getLsbD (lsb + j)) := by
  unfold field
  rw [BitVec.testBit_toNat]
  simp

/-- A field is below the power of its width. -/
theorem field_lt (w : Word) (lsb width : Nat) : field w lsb width < 2 ^ width := (w.extractLsb' lsb width).isLt

/-- The bits of a placed operand. -/
@[simp] theorem getLsbD_place (n lsb j : Nat) :
    (place n lsb).getLsbD j = (decide (j < 32) && (!decide (j < lsb) && n.testBit (j - lsb))) := by
  unfold place
  rw [BitVec.getLsbD_shiftLeft, BitVec.getLsbD_ofNat]
  by_cases h : j < 32 <;> by_cases h' : j < lsb <;> simp [h, h']
  omega

/-- The bits of a placed operand, read by index. -/
@[simp] theorem getElem_place (n lsb j : Nat) (h : j < 32) :
    (place n lsb)[j] = (!decide (j < lsb) && n.testBit (j - lsb)) := by
  rw [← BitVec.getLsbD_eq_getElem, getLsbD_place]
  simp [h]

/-- A field as a quotient and remainder. -/
theorem field_eq (w : Word) (lsb width : Nat) : field w lsb width = w.toNat / 2 ^ lsb % 2 ^ width := by
  simp [field, BitVec.extractLsb'_toNat, Nat.shiftRight_eq_div_pow]

/-- An operand below `2 ^ width` has no bit from `width` up. -/
theorem testBit_of_fits {n width j : Nat} (h : n < 2 ^ width) (hj : width ≤ j) : n.testBit j = false :=
  Nat.testBit_lt_two_pow (Nat.lt_of_lt_of_le h (Nat.pow_le_pow_right (by decide) hj))

/-- A field is `n` when its bits are those of `n` and `n` fits. -/
theorem field_eq_of_bits {w : Word} {lsb width n : Nat} (hn : n < 2 ^ width)
    (h : ∀ j < width, w.getLsbD (lsb + j) = n.testBit j) : field w lsb width = n := by
  refine Nat.eq_of_testBit_eq fun j => ?_
  rw [testBit_field]
  by_cases hj : j < width
  · simp [hj, h j hj]
  · simp [hj, testBit_of_fits hn (Nat.le_of_not_lt hj)]

/-- When `unreserved` gives a command, the reserved bits are 0 and it is that command. -/
theorem unreserved_eq_ok {w : Word} {lsb : Nat} {i j : Instr} :
    unreserved w lsb i = .ok j ↔ field w lsb (32 - lsb) = 0 ∧ i = j := by
  unfold unreserved
  split <;> simp_all

end Sys2Proof
end

