-- ==== Sys2Proof/Laws/State.lean ====
section
/-! SUPPORT. What each named update of the state does to each field: one lemma per field per update, so that no proof
unfolds a record update. -/

namespace Sys2Proof.Machine

variable (s : State)

@[simp] theorem State.raiseError_lanes (code : ErrorCode) (w : Word) : (s.raiseError code w).lanes = s.lanes := rfl
@[simp] theorem State.raiseError_init (code : ErrorCode) (w : Word) : (s.raiseError code w).init = s.init := rfl
@[simp] theorem State.raiseError_err (code : ErrorCode) (w : Word) : (s.raiseError code w).err = true := rfl
@[simp] theorem State.raiseError_errCode (code : ErrorCode) (w : Word) : (s.raiseError code w).errCode = code := rfl
@[simp] theorem State.raiseError_errCmd (code : ErrorCode) (w : Word) : (s.raiseError code w).errCmd = w := rfl
@[simp] theorem State.raiseError_busy (code : ErrorCode) (w : Word) : (s.raiseError code w).busy = false := rfl
@[simp] theorem State.raiseError_phase (code : ErrorCode) (w : Word) : (s.raiseError code w).phase = .halt := rfl
@[simp] theorem State.raiseError_cmdWord (code : ErrorCode) (w : Word) : (s.raiseError code w).cmdWord = s.cmdWord := rfl
@[simp] theorem State.raiseError_dinBuf (code : ErrorCode) (w : Word) : (s.raiseError code w).dinBuf = s.dinBuf := rfl
@[simp] theorem State.raiseError_doutPend (code : ErrorCode) (w : Word) : (s.raiseError code w).doutPend = s.doutPend := rfl
@[simp] theorem State.raiseError_engine (code : ErrorCode) (w : Word) : (s.raiseError code w).engine = s.engine := rfl
@[simp] theorem State.raiseError_draws (code : ErrorCode) (w : Word) : (s.raiseError code w).draws = s.draws := rfl
@[simp] theorem State.raiseError_cmdIn (code : ErrorCode) (w : Word) : (s.raiseError code w).cmdIn = s.cmdIn := rfl
@[simp] theorem State.raiseError_dinIn (code : ErrorCode) (w : Word) : (s.raiseError code w).dinIn = s.dinIn := rfl
@[simp] theorem State.raiseError_doutOut (code : ErrorCode) (w : Word) : (s.raiseError code w).doutOut = s.doutOut := rfl

@[simp] theorem State.begin_lanes (w : Word) (n : Nat) : (s.begin w n).lanes = s.lanes := rfl
@[simp] theorem State.begin_init (w : Word) (n : Nat) : (s.begin w n).init = s.init := rfl
@[simp] theorem State.begin_err (w : Word) (n : Nat) : (s.begin w n).err = s.err := rfl
@[simp] theorem State.begin_errCode (w : Word) (n : Nat) : (s.begin w n).errCode = s.errCode := rfl
@[simp] theorem State.begin_errCmd (w : Word) (n : Nat) : (s.begin w n).errCmd = s.errCmd := rfl
@[simp] theorem State.begin_busy (w : Word) (n : Nat) : (s.begin w n).busy = true := rfl
@[simp] theorem State.begin_phase (w : Word) (n : Nat) : (s.begin w n).phase = .exec := rfl
@[simp] theorem State.begin_cmdWord (w : Word) (n : Nat) : (s.begin w n).cmdWord = w := rfl
@[simp] theorem State.begin_dinBuf (w : Word) (n : Nat) : (s.begin w n).dinBuf = s.dinIn.take n := rfl
@[simp] theorem State.begin_doutPend (w : Word) (n : Nat) : (s.begin w n).doutPend = [] := rfl
@[simp] theorem State.begin_engine (w : Word) (n : Nat) : (s.begin w n).engine = s.engine := rfl
@[simp] theorem State.begin_draws (w : Word) (n : Nat) : (s.begin w n).draws = s.draws := rfl
@[simp] theorem State.begin_cmdIn (w : Word) (n : Nat) : (s.begin w n).cmdIn = s.cmdIn := rfl
@[simp] theorem State.begin_dinIn (w : Word) (n : Nat) : (s.begin w n).dinIn = s.dinIn.drop n := rfl
@[simp] theorem State.begin_doutOut (w : Word) (n : Nat) : (s.begin w n).doutOut = s.doutOut := rfl

@[simp] theorem State.awaitDin_lanes (w : Word) : (s.awaitDin w).lanes = s.lanes := rfl
@[simp] theorem State.awaitDin_init (w : Word) : (s.awaitDin w).init = s.init := rfl
@[simp] theorem State.awaitDin_err (w : Word) : (s.awaitDin w).err = s.err := rfl
@[simp] theorem State.awaitDin_errCode (w : Word) : (s.awaitDin w).errCode = s.errCode := rfl
@[simp] theorem State.awaitDin_errCmd (w : Word) : (s.awaitDin w).errCmd = s.errCmd := rfl
@[simp] theorem State.awaitDin_busy (w : Word) : (s.awaitDin w).busy = true := rfl
@[simp] theorem State.awaitDin_phase (w : Word) : (s.awaitDin w).phase = .din := rfl
@[simp] theorem State.awaitDin_cmdWord (w : Word) : (s.awaitDin w).cmdWord = w := rfl
@[simp] theorem State.awaitDin_dinBuf (w : Word) : (s.awaitDin w).dinBuf = s.dinIn := rfl
@[simp] theorem State.awaitDin_doutPend (w : Word) : (s.awaitDin w).doutPend = [] := rfl
@[simp] theorem State.awaitDin_engine (w : Word) : (s.awaitDin w).engine = s.engine := rfl
@[simp] theorem State.awaitDin_draws (w : Word) : (s.awaitDin w).draws = s.draws := rfl
@[simp] theorem State.awaitDin_cmdIn (w : Word) : (s.awaitDin w).cmdIn = s.cmdIn := rfl
@[simp] theorem State.awaitDin_dinIn (w : Word) : (s.awaitDin w).dinIn = [] := rfl
@[simp] theorem State.awaitDin_doutOut (w : Word) : (s.awaitDin w).doutOut = s.doutOut := rfl

@[simp] theorem State.doutWrite_lanes (bs : List Byte) : (s.doutWrite bs).lanes = s.lanes := rfl
@[simp] theorem State.doutWrite_init (bs : List Byte) : (s.doutWrite bs).init = s.init := rfl
@[simp] theorem State.doutWrite_err (bs : List Byte) : (s.doutWrite bs).err = s.err := rfl
@[simp] theorem State.doutWrite_errCode (bs : List Byte) : (s.doutWrite bs).errCode = s.errCode := rfl
@[simp] theorem State.doutWrite_errCmd (bs : List Byte) : (s.doutWrite bs).errCmd = s.errCmd := rfl
@[simp] theorem State.doutWrite_busy (bs : List Byte) : (s.doutWrite bs).busy = s.busy := rfl
@[simp] theorem State.doutWrite_phase (bs : List Byte) : (s.doutWrite bs).phase = s.phase := rfl
@[simp] theorem State.doutWrite_cmdWord (bs : List Byte) : (s.doutWrite bs).cmdWord = s.cmdWord := rfl
@[simp] theorem State.doutWrite_dinBuf (bs : List Byte) : (s.doutWrite bs).dinBuf = s.dinBuf := rfl
@[simp] theorem State.doutWrite_doutPend (bs : List Byte) : (s.doutWrite bs).doutPend = s.doutPend ++ bs := rfl
@[simp] theorem State.doutWrite_engine (bs : List Byte) : (s.doutWrite bs).engine = s.engine := rfl
@[simp] theorem State.doutWrite_draws (bs : List Byte) : (s.doutWrite bs).draws = s.draws := rfl
@[simp] theorem State.doutWrite_cmdIn (bs : List Byte) : (s.doutWrite bs).cmdIn = s.cmdIn := rfl
@[simp] theorem State.doutWrite_dinIn (bs : List Byte) : (s.doutWrite bs).dinIn = s.dinIn := rfl
@[simp] theorem State.doutWrite_doutOut (bs : List Byte) : (s.doutWrite bs).doutOut = s.doutOut := rfl

@[simp] theorem State.retire_lanes : (s.retire).lanes = s.lanes := rfl
@[simp] theorem State.retire_init : (s.retire).init = s.init := rfl
@[simp] theorem State.retire_err : (s.retire).err = s.err := rfl
@[simp] theorem State.retire_errCode : (s.retire).errCode = s.errCode := rfl
@[simp] theorem State.retire_errCmd : (s.retire).errCmd = s.errCmd := rfl
@[simp] theorem State.retire_busy : (s.retire).busy = false := rfl
@[simp] theorem State.retire_phase : (s.retire).phase = .idle := rfl
@[simp] theorem State.retire_cmdWord : (s.retire).cmdWord = s.cmdWord := rfl
@[simp] theorem State.retire_dinBuf : (s.retire).dinBuf = [] := rfl
@[simp] theorem State.retire_doutPend : (s.retire).doutPend = s.doutPend := rfl
@[simp] theorem State.retire_engine : (s.retire).engine = s.engine := rfl
@[simp] theorem State.retire_draws : (s.retire).draws = s.draws := rfl
@[simp] theorem State.retire_cmdIn : (s.retire).cmdIn = s.cmdIn := rfl
@[simp] theorem State.retire_dinIn : (s.retire).dinIn = s.dinIn := rfl
@[simp] theorem State.retire_doutOut : (s.retire).doutOut = s.doutOut := rfl

@[simp] theorem State.drain_lanes : (s.drain).lanes = s.lanes := rfl
@[simp] theorem State.drain_init : (s.drain).init = s.init := rfl
@[simp] theorem State.drain_err : (s.drain).err = s.err := rfl
@[simp] theorem State.drain_errCode : (s.drain).errCode = s.errCode := rfl
@[simp] theorem State.drain_errCmd : (s.drain).errCmd = s.errCmd := rfl
@[simp] theorem State.drain_busy : (s.drain).busy = false := rfl
@[simp] theorem State.drain_phase : (s.drain).phase = .idle := rfl
@[simp] theorem State.drain_cmdWord : (s.drain).cmdWord = s.cmdWord := rfl
@[simp] theorem State.drain_dinBuf : (s.drain).dinBuf = [] := rfl
@[simp] theorem State.drain_doutPend : (s.drain).doutPend = [] := rfl
@[simp] theorem State.drain_engine : (s.drain).engine = s.engine := rfl
@[simp] theorem State.drain_draws : (s.drain).draws = s.draws := rfl
@[simp] theorem State.drain_cmdIn : (s.drain).cmdIn = s.cmdIn := rfl
@[simp] theorem State.drain_dinIn : (s.drain).dinIn = s.dinIn := rfl
@[simp] theorem State.drain_doutOut : (s.drain).doutOut = s.doutOut ++ s.doutPend := rfl

@[simp] theorem State.rewind_lanes : (s.rewind).lanes = s.lanes := rfl
@[simp] theorem State.rewind_init : (s.rewind).init = s.init := rfl
@[simp] theorem State.rewind_err : (s.rewind).err = s.err := rfl
@[simp] theorem State.rewind_errCode : (s.rewind).errCode = s.errCode := rfl
@[simp] theorem State.rewind_errCmd : (s.rewind).errCmd = s.errCmd := rfl
@[simp] theorem State.rewind_busy : (s.rewind).busy = false := rfl
@[simp] theorem State.rewind_phase : (s.rewind).phase = .idle := rfl
@[simp] theorem State.rewind_cmdWord : (s.rewind).cmdWord = s.cmdWord := rfl
@[simp] theorem State.rewind_dinBuf : (s.rewind).dinBuf = [] := rfl
@[simp] theorem State.rewind_doutPend : (s.rewind).doutPend = s.doutPend := rfl
@[simp] theorem State.rewind_engine : (s.rewind).engine = s.engine := rfl
@[simp] theorem State.rewind_draws : (s.rewind).draws = s.draws := rfl
@[simp] theorem State.rewind_cmdIn : (s.rewind).cmdIn = s.cmdIn := rfl
@[simp] theorem State.rewind_dinIn : (s.rewind).dinIn = s.dinBuf ++ s.dinIn := rfl
@[simp] theorem State.rewind_doutOut : (s.rewind).doutOut = s.doutOut := rfl

@[simp] theorem permuteFrom_lanes (a : Lanes) : (permuteFrom a s).lanes = keccakF a := rfl
@[simp] theorem permuteFrom_init (a : Lanes) : (permuteFrom a s).init = s.init := rfl
@[simp] theorem permuteFrom_err (a : Lanes) : (permuteFrom a s).err = s.err := rfl
@[simp] theorem permuteFrom_errCode (a : Lanes) : (permuteFrom a s).errCode = s.errCode := rfl
@[simp] theorem permuteFrom_errCmd (a : Lanes) : (permuteFrom a s).errCmd = s.errCmd := rfl
@[simp] theorem permuteFrom_busy (a : Lanes) : (permuteFrom a s).busy = s.busy := rfl
@[simp] theorem permuteFrom_phase (a : Lanes) : (permuteFrom a s).phase = s.phase := rfl
@[simp] theorem permuteFrom_cmdWord (a : Lanes) : (permuteFrom a s).cmdWord = s.cmdWord := rfl
@[simp] theorem permuteFrom_dinBuf (a : Lanes) : (permuteFrom a s).dinBuf = s.dinBuf := rfl
@[simp] theorem permuteFrom_doutPend (a : Lanes) : (permuteFrom a s).doutPend = s.doutPend := rfl
@[simp] theorem permuteFrom_engine (a : Lanes) : (permuteFrom a s).engine = s.engine.permute Config.build.rcSource a := rfl
@[simp] theorem permuteFrom_draws (a : Lanes) : (permuteFrom a s).draws = s.draws := rfl
@[simp] theorem permuteFrom_cmdIn (a : Lanes) : (permuteFrom a s).cmdIn = s.cmdIn := rfl
@[simp] theorem permuteFrom_dinIn (a : Lanes) : (permuteFrom a s).dinIn = s.dinIn := rfl
@[simp] theorem permuteFrom_doutOut (a : Lanes) : (permuteFrom a s).doutOut = s.doutOut := rfl

@[simp] theorem State.withFetchWord_lanes (nbits w : Nat) : (s.withFetchWord nbits w).lanes = s.lanes := rfl
@[simp] theorem State.withFetchWord_init (nbits w : Nat) : (s.withFetchWord nbits w).init = s.init := rfl
@[simp] theorem State.withFetchWord_err (nbits w : Nat) : (s.withFetchWord nbits w).err = s.err := rfl
@[simp] theorem State.withFetchWord_errCode (nbits w : Nat) : (s.withFetchWord nbits w).errCode = s.errCode := rfl
@[simp] theorem State.withFetchWord_errCmd (nbits w : Nat) : (s.withFetchWord nbits w).errCmd = s.errCmd := rfl
@[simp] theorem State.withFetchWord_busy (nbits w : Nat) : (s.withFetchWord nbits w).busy = s.busy := rfl
@[simp] theorem State.withFetchWord_phase (nbits w : Nat) : (s.withFetchWord nbits w).phase = s.phase := rfl
@[simp] theorem State.withFetchWord_cmdWord (nbits w : Nat) : (s.withFetchWord nbits w).cmdWord = s.cmdWord := rfl
@[simp] theorem State.withFetchWord_dinBuf (nbits w : Nat) : (s.withFetchWord nbits w).dinBuf = s.dinBuf := rfl
@[simp] theorem State.withFetchWord_doutPend (nbits w : Nat) : (s.withFetchWord nbits w).doutPend = s.doutPend := rfl
@[simp] theorem State.withFetchWord_engine (nbits w : Nat) : (s.withFetchWord nbits w).engine = s.engine := rfl
@[simp] theorem State.withFetchWord_draws (nbits w : Nat) : (s.withFetchWord nbits w).draws = s.draws := rfl
@[simp] theorem State.withFetchWord_cmdIn (nbits w : Nat) : (s.withFetchWord nbits w).cmdIn = BitVec.ofNat 32 (w % 2 ^ nbits) :: s.cmdIn := rfl
@[simp] theorem State.withFetchWord_dinIn (nbits w : Nat) : (s.withFetchWord nbits w).dinIn = s.dinIn := rfl
@[simp] theorem State.withFetchWord_doutOut (nbits w : Nat) : (s.withFetchWord nbits w).doutOut = s.doutOut := rfl

end Sys2Proof.Machine
end

