-- ==== Sys2Proof/Laws/Engine.lean ====
section
/-! SUPPORT. The engine's rounds one after another, and what every command's effect leaves as it is. -/

namespace Sys2Proof.Machine

/-- `exec` performs the command with the effect of its rule. -/
theorem exec_eq_perform (i : Instr) (s : State) : exec i s = perform i (effectOf i) s := by cases i <;> rfl

/-- The last of `n + 1` rounds comes after the other `n`. -/
theorem Engine.runRounds_succ (src : RcSource) (n : Nat) (e : Engine) :
    Engine.runRounds src (n + 1) e = (Engine.runRounds src n e).stepRound src := by
  induction n generalizing e with
  | zero => rfl
  | succ n ih => rw [Engine.runRounds, ih]; rfl

/-- `n + m` rounds are `m` rounds and then `n` more. -/
theorem Engine.runRounds_add (src : RcSource) (n m : Nat) (e : Engine) :
    Engine.runRounds src (n + m) e = Engine.runRounds src n (Engine.runRounds src m e) := by
  induction m generalizing e with
  | zero => rfl
  | succ m ih => rw [← Nat.add_assoc, Engine.runRounds, ih]; rfl

/-- Every number of rounds per cycle divides the 24 rounds. -/
theorem count_dvd (c : RoundsPerCycle) : c.count ∣ 24 ∧ 0 < c.count := by cases c <;> decide

/-- No command's effect touches the status registers but INIT, the phase, the DIN bytes or the host's queues. -/
theorem effectOf_keeps (i : Instr) (s : State) :
    (effectOf i s).phase = s.phase ∧ (effectOf i s).busy = s.busy ∧ (effectOf i s).err = s.err ∧
      (effectOf i s).errCode = s.errCode ∧ (effectOf i s).errCmd = s.errCmd ∧ (effectOf i s).cmdWord = s.cmdWord ∧
      (effectOf i s).dinBuf = s.dinBuf ∧ (effectOf i s).dinIn = s.dinIn ∧ (effectOf i s).cmdIn = s.cmdIn ∧
      (effectOf i s).doutOut = s.doutOut ∧ (effectOf i s).draws = s.draws := by
  cases i <;> simp [effectOf, cinitEffect, sinitEffect, xorbEffect, xorlEffect, cbitEffect, permEffect, permuteFrom,
    extbEffect, extlEffect, xpeEffect, rdrcEffect, rdrhoEffect]

/-- An effect reads the state only through A, INIT, the DIN bytes, the pending DOUT bytes and the engine: what stands at the
host's ends of the channels passes through it. -/
theorem effectOf_host (i : Instr) (s : State) (c : List Word) (d o : List Byte) :
    effectOf i { s with cmdIn := c, dinIn := d, doutOut := o } =
      { effectOf i s with cmdIn := c, dinIn := d, doutOut := o } := by cases i <;> rfl

end Sys2Proof.Machine
end

