-- ==== Sys2Proof/Laws/Lanes.lean ====
section
/-! SUPPORT. What each operation on lanes gives at each lane, and the bits of a value built bit by bit. -/

namespace Sys2Proof.Machine

/-! ### Bits -/

theorem foldr_bits_lt (f : Nat → Bool) (w : Nat) (c : Nat) :
    (List.range w).foldr (fun j acc => (f j).toNat * 2 ^ j + acc) c =
      (List.range w).foldr (fun j acc => (f j).toNat * 2 ^ j + acc) 0 + c := by
  induction w generalizing c with
  | zero => simp
  | succ n ih =>
    rw [List.range_succ, List.foldr_append, List.foldr_append, ih, ih (c := List.foldr _ _ _)]
    simp only [List.foldr_cons, List.foldr_nil]
    omega

/-- The sum of the first `w` weighted bits is below `2 ^ w` and has those bits. -/
theorem foldr_bits_testBit (f : Nat → Bool) (w : Nat) :
    (List.range w).foldr (fun j acc => (f j).toNat * 2 ^ j + acc) 0 < 2 ^ w ∧
      ∀ j, j < w → ((List.range w).foldr (fun j acc => (f j).toNat * 2 ^ j + acc) 0).testBit j = f j := by
  induction w with
  | zero => simp
  | succ n ih =>
    rw [List.range_succ, List.foldr_append, foldr_bits_lt]
    simp only [List.foldr_cons, List.foldr_nil, Nat.add_zero]
    obtain ⟨hlt, hbit⟩ := ih
    have hb : (f n).toNat ≤ 1 := Bool.toNat_le _
    refine ⟨?_, fun j hj => ?_⟩
    · have : (f n).toNat * 2 ^ n ≤ 1 * 2 ^ n := Nat.mul_le_mul_right _ hb
      rw [Nat.pow_succ]; omega
    · rw [Nat.add_comm, Nat.mul_comm, Nat.testBit_two_pow_mul_add _ hlt]
      by_cases h : j < n
      · simp [h, hbit j h]
      · have : j = n := by omega
        subst this
        cases f j <;> simp

/-- The bits of `ofBits`. -/
@[simp] theorem getLsbD_ofBits (w : Nat) (f : Nat → Bool) (j : Nat) :
    (ofBits w f).getLsbD j = (decide (j < w) && f j) := by
  unfold ofBits
  rw [BitVec.getLsbD_ofNat]
  by_cases h : j < w
  · simp [h, (foldr_bits_testBit f w).2 j h]
  · simp [h]

/-- The bits of a byte of a lane. -/
@[simp] theorem getLsbD_byteOf (v : Lane) (k j : Nat) : (byteOf v k).getLsbD j = (decide (j < 8) && v.getLsbD (8 * k + j)) := by
  simp [byteOf]

/-- The bits of `ofBits`, read by index. -/
@[simp] theorem getElem_ofBits (w : Nat) (f : Nat → Bool) (j : Nat) (h : j < w) : (ofBits w f)[j] = f j := by
  rw [← BitVec.getLsbD_eq_getElem, getLsbD_ofBits]
  simp [h]

/-! ### Lanes -/

/-- Inside the lane file, `laneAt` reads the lane. -/
@[simp] theorem laneAt_fin (a : Lanes) (i : Fin 25) : laneAt a i.val = a[i] := by
  simp [laneAt]

theorem laneAt_of_lt (a : Lanes) {i : Nat} (h : i < 25) : laneAt a i = a[i] := by
  simp [laneAt, h]

@[simp] theorem getElem_setLane (a : Lanes) (l : Nat) (v : Lane) (i : Nat) (h : i < 25) :
    (setLane a l v)[i] = if i = l then v else a[i] := by
  simp [setLane]

@[simp] theorem getElem_zeroLanes (i : Nat) (h : i < 25) : zeroLanes[i] = 0 := by
  simp [zeroLanes]

@[simp] theorem getElem_xorLanes (a : Lanes) (n : Nat) (d : List Byte) (i : Nat) (h : i < 25) :
    (xorLanes a n d)[i] = if i < n then a[i] ^^^ le64 ((d.drop (8 * i)).take 8) else a[i] := by
  simp [xorLanes]

@[simp] theorem getElem_thetaApply (a : Lanes) (d : Columns) (i : Nat) (h : i < 25) :
    (thetaApply a d)[i] = a[i] ^^^ d[Fin.ofNat 5 i] := by
  simp [thetaApply]

@[simp] theorem getElem_rho (a : Lanes) (i : Nat) (h : i < 25) : (rho a)[i] = rotl a[i] (rhoOffset i) := by
  simp [rho]

@[simp] theorem getElem_pi {α : Type} (a : Vector α 25) (i : Nat) (h : i < 25) : (pi a)[i] = a[piSrc ⟨i, h⟩] := by
  simp [pi]

@[simp] theorem getElem_chi {w : Nat} (a : Vector (BitVec w) 25) (i : Nat) (h : i < 25) :
    (chi a)[i] = a[i] ^^^ (~~~ a[idx (i % 5 + 1) (i / 5)] &&& a[idx (i % 5 + 2) (i / 5)]) := by
  simp [chi]

@[simp] theorem getElem_chiComplement {w : Nat} (a : Vector (BitVec w) 25) (i : Nat) (h : i < 25) :
    (chiComplement a)[i] = chiTable[i].value a[i] a[idx (i % 5 + 1) (i / 5)] a[idx (i % 5 + 2) (i / 5)] := by
  simp [chiComplement]

@[simp] theorem getElem_xorLane0 (a : Lanes) (k : Lane) (i : Nat) (h : i < 25) :
    (xorLane0 a k)[i] = if i = 0 then a[i] ^^^ k else a[i] := by
  have : ((⟨i, h⟩ : Fin 25) = 0) = (i = 0) := propext Fin.mk_eq_zero
  simp only [xorLane0, Vector.getElem_ofFn, this]
  rfl

@[simp] theorem getElem_xorMask (c : Bool) (a : Lanes) (i : Nat) (h : i < 25) :
    (xorMask c a)[i] = a[i] ^^^ complementMask 64 c i := by
  simp [xorMask]

@[simp] theorem getElem_maskLanes (set : List Nat) (a : Lanes) (i : Nat) (h : i < 25) :
    (maskLanes set a)[i] = a[i] ^^^ maskOf 64 set i := by
  simp [maskLanes]

/-- `bytesOf` gives `len` bytes. -/
@[simp] theorem length_bytesOf (v : Lane) (off len : Nat) : (bytesOf v off len).length = len := by
  simp [bytesOf]

/-- `extractLanes` gives eight bytes a lane. -/
@[simp] theorem length_extractLanes (a : Lanes) (n : Nat) : (extractLanes a n).length = 8 * n := by
  induction n with
  | zero => simp [extractLanes]
  | succ n ih =>
    rw [extractLanes, List.range_succ, List.flatMap_append, List.length_append, ← extractLanes, ih]
    simp
    omega

end Sys2Proof.Machine
end

