-- ==== Sys2Proof/Laws/PerInstr.lean ====
section
/-! SUPPORT. Statements for all instructions, one lemma for each constructor. -/

namespace Sys2Proof.Laws.EncodedRow

/-- The word of a well-formed command matches the command's own row of the opcode table (30_encoding.md R80). -/
def Statement (i : Instr) : Prop :=
  i.WellFormed → ((opcodeTable[tableRow i]?).map fun row => matchesRow (encode i) row) = some true

/-- An operand placed in its field has no bit outside it. -/
theorem place_mask {n lsb width : Nat} (h : n < 2 ^ width) (m : Word)
    (hm : ∀ j < 32, m.getLsbD j = true → j < lsb ∨ lsb + width ≤ j) : place n lsb &&& m = 0 := by
  refine BitVec.eq_of_getLsbD_eq fun j hj => ?_
  change _ = (0#32).getLsbD j
  rw [BitVec.getLsbD_and, getLsbD_place, BitVec.getLsbD_zero]
  cases hb : m.getLsbD j
  · simp
  · rcases hm j hj hb with h' | h'
    · simp [h']
    · have : n.testBit (j - lsb) = false :=
        Nat.testBit_lt_two_pow (Nat.lt_of_lt_of_le h (Nat.pow_le_pow_right (by decide) (by omega)))
      simp [this]

/-- An operand whose field the mask leaves out does not show through the mask. -/
theorem or_place_mask {c m : Word} {n lsb width : Nat} (h : n < 2 ^ width)
    (hm : ∀ j < 32, m.getLsbD j = true → j < lsb ∨ lsb + width ≤ j) : (c ||| place n lsb) &&& m = c &&& m := by
  rw [show (c ||| place n lsb) &&& m = (c &&& m) ||| (place n lsb &&& m) from
    BitVec.eq_of_getLsbD_eq fun j _ => by simp [Bool.and_or_distrib_right], place_mask h m hm]
  simp

theorem cinit : Statement .cinit := fun _ => by decide
theorem sinit : Statement .sinit := fun _ => by decide
theorem perm : Statement .perm := fun _ => by decide

theorem xorb (lane off len : Nat) : Statement (.xorb lane off len) := fun h => by
  simp only [Instr.WellFormed, Instr.wellFormed, Bool.and_eq_true, decide_eq_true_eq] at h
  simp only [tableRow, opcodeTable, List.getElem?_cons_succ, List.getElem?_cons_zero, Option.map_some, matchesRow, encode,
    or_place_mask (m := 0xFFFF000F) (lsb := 12) (width := 4) h.2 (by decide),
    or_place_mask (m := 0xFFFF000F) (lsb := 9) (width := 3) h.1.2 (by decide),
    or_place_mask (m := 0xFFFF000F) (lsb := 4) (width := 5) h.1.1 (by decide)]
  decide

theorem extb (lane off len : Nat) : Statement (.extb lane off len) := fun h => by
  simp only [Instr.WellFormed, Instr.wellFormed, Bool.and_eq_true, decide_eq_true_eq] at h
  simp only [tableRow, opcodeTable, List.getElem?_cons_succ, List.getElem?_cons_zero, Option.map_some, matchesRow, encode,
    or_place_mask (m := 0xFFFF000F) (lsb := 12) (width := 4) h.2 (by decide),
    or_place_mask (m := 0xFFFF000F) (lsb := 9) (width := 3) h.1.2 (by decide),
    or_place_mask (m := 0xFFFF000F) (lsb := 4) (width := 5) h.1.1 (by decide)]
  decide

theorem xorl (n : Nat) : Statement (.xorl n) := fun h => by
  simp only [Instr.WellFormed, Instr.wellFormed, decide_eq_true_eq] at h
  simp only [tableRow, opcodeTable, List.getElem?_cons_succ, List.getElem?_cons_zero, Option.map_some, matchesRow, encode,
    or_place_mask (m := 0xFFFFFE0F) (lsb := 4) (width := 5) h (by decide)]
  decide

theorem cbit (p : Nat) : Statement (.cbit p) := fun h => by
  simp only [Instr.WellFormed, Instr.wellFormed, decide_eq_true_eq] at h
  simp only [tableRow, opcodeTable, List.getElem?_cons_succ, List.getElem?_cons_zero, Option.map_some, matchesRow, encode,
    or_place_mask (m := 0xFFFF800F) (lsb := 4) (width := 11) h (by decide)]
  decide

theorem extl (n : Nat) : Statement (.extl n) := fun h => by
  simp only [Instr.WellFormed, Instr.wellFormed, decide_eq_true_eq] at h
  simp only [tableRow, opcodeTable, List.getElem?_cons_succ, List.getElem?_cons_zero, Option.map_some, matchesRow, encode,
    or_place_mask (m := 0xFFFFFE0F) (lsb := 4) (width := 5) h (by decide)]
  decide

theorem xpe (n m : Nat) : Statement (.xpe n m) := fun h => by
  simp only [Instr.WellFormed, Instr.wellFormed, Bool.and_eq_true, decide_eq_true_eq] at h
  simp only [tableRow, opcodeTable, List.getElem?_cons_succ, List.getElem?_cons_zero, Option.map_some, matchesRow, encode,
    or_place_mask (m := 0xFFFFC00F) (lsb := 9) (width := 5) h.2 (by decide), or_place_mask (m := 0xFFFFC00F) (lsb := 4) (width := 5) h.1 (by decide)]
  decide

theorem rdrc (r : Nat) : Statement (.rdrc r) := fun h => by
  simp only [Instr.WellFormed, Instr.wellFormed, decide_eq_true_eq] at h
  simp only [tableRow, opcodeTable, List.getElem?_cons_succ, List.getElem?_cons_zero, Option.map_some, matchesRow, encode,
    or_place_mask (m := 0xFFFFFE0F) (lsb := 4) (width := 5) h (by decide)]
  decide

theorem rdrho (i : Nat) : Statement (.rdrho i) := fun h => by
  simp only [Instr.WellFormed, Instr.wellFormed, decide_eq_true_eq] at h
  simp only [tableRow, opcodeTable, List.getElem?_cons_succ, List.getElem?_cons_zero, Option.map_some, matchesRow, encode,
    or_place_mask (m := 0xFFFFFE0F) (lsb := 4) (width := 5) h (by decide)]
  decide

end Sys2Proof.Laws.EncodedRow
end

