-- ==== Sys2Proof/Laws/Perform.lean ====
section
/-! SUPPORT. What performing one command can do, said once: provers cite these and need not unfold `perform`. -/

namespace Sys2Proof.Machine

variable {i : Instr} {effect : State → State} {s t : State}

/-- `exec` is `perform` of the command with its effect. -/
theorem exec_cinit (s : State) : exec .cinit s = perform .cinit cinitEffect s := rfl
theorem exec_sinit (s : State) : exec .sinit s = perform .sinit sinitEffect s := rfl
theorem exec_xorb (lane off len : Nat) (s : State) :
    exec (.xorb lane off len) s = perform (.xorb lane off len) (xorbEffect lane off len) s := rfl
theorem exec_xorl (n : Nat) (s : State) : exec (.xorl n) s = perform (.xorl n) (xorlEffect n) s := rfl
theorem exec_cbit (p : Nat) (s : State) : exec (.cbit p) s = perform (.cbit p) (cbitEffect p) s := rfl
theorem exec_perm (s : State) : exec .perm s = perform .perm permEffect s := rfl
theorem exec_extb (lane off len : Nat) (s : State) :
    exec (.extb lane off len) s = perform (.extb lane off len) (extbEffect lane off len) s := rfl
theorem exec_extl (n : Nat) (s : State) : exec (.extl n) s = perform (.extl n) (extlEffect n) s := rfl
theorem exec_xpe (n m : Nat) (s : State) : exec (.xpe n m) s = perform (.xpe n m) (xpeEffect n m) s := rfl
theorem exec_rdrc (r : Nat) (s : State) : exec (.rdrc r) s = perform (.rdrc r) (rdrcEffect r) s := rfl
theorem exec_rdrho (k : Nat) (s : State) : exec (.rdrho k) s = perform (.rdrho k) (rdrhoEffect k) s := rfl

/-- A command that passes its check and has its DIN bytes offered is performed whole. -/
theorem perform_done (hh : s.halted = false) (hc : check i s.init = .none) (hn : nin i ≤ s.dinIn.length) :
    perform i effect s = .next (effect (s.begin (encode i) (nin i))).drain := by
  simp [perform, hh, hc, hn]

/-- A command that passes its check and has too few DIN bytes offered waits for the rest. -/
theorem perform_waits (hh : s.halted = false) (hc : check i s.init = .none) (hn : s.dinIn.length < nin i) :
    perform i effect s = .next (s.awaitDin (encode i)) := by
  simp [perform, hh, hc, Nat.not_le.mpr hn]

/-- A command that fails its check takes the error entry. -/
theorem perform_rejected (hh : s.halted = false) (hc : check i s.init ≠ .none) :
    perform i effect s = .next (s.raiseError (check i s.init) (encode i)) := by
  simp [perform, hh, hc]

/-- A halted block has no step. -/
theorem perform_halted (hh : s.halted = true) : perform i effect s = .fault .halted := by
  simp [perform, hh]

/-- Everything a performed command can do: if it answers a next state, the block was not halted, and the command was
performed whole, or waits for DIN bytes, or was rejected. -/
theorem perform_cases (h : perform i effect s = .next t) :
    s.halted = false ∧
      ((check i s.init = .none ∧ nin i ≤ s.dinIn.length ∧ t = (effect (s.begin (encode i) (nin i))).drain) ∨
        (check i s.init = .none ∧ s.dinIn.length < nin i ∧ t = s.awaitDin (encode i)) ∨
        (check i s.init ≠ .none ∧ t = s.raiseError (check i s.init) (encode i))) := by
  unfold perform at h
  split at h
  · cases h
  · rename_i hh
    refine ⟨by simpa using hh, ?_⟩
    split at h
    · rename_i hc
      split at h
      · rename_i hn; cases h; exact .inl ⟨hc, hn, rfl⟩
      · rename_i hn; cases h; exact .inr (.inl ⟨hc, Nat.lt_of_not_le hn, rfl⟩)
    · rename_i hc; cases h; exact .inr (.inr ⟨hc, rfl⟩)

/-- No command is refused. -/
theorem perform_ne_refused (r : Refusal) : perform i effect s ≠ .refused r := by
  unfold perform
  split <;> [skip; split <;> [split; skip]] <;> exact fun h => nomatch h

end Sys2Proof.Machine
end

