-- ==== Sys2Proof/Tests/Slice0.lean ====
section
/-! SUPPORT. The model's own tests. Every expected value is spec/'s: the words and vectors of 95_test_vectors.md, the
examples of the command rules, and the encodings of 30_encoding.md. -/

namespace Sys2Proof.Tests

open Sys2Proof.Machine

/-! ### WellFormed refuses an operand that does not fit its field (R89), once for each check -/

theorem test_wf_xorb_lane : (Instr.xorb 32 0 0).wellFormed = false := by decide
theorem test_wf_xorb_off : (Instr.xorb 0 8 0).wellFormed = false := by decide
theorem test_wf_xorb_len : (Instr.xorb 0 0 16).wellFormed = false := by decide
theorem test_wf_xorl : (Instr.xorl 32).wellFormed = false := by decide
theorem test_wf_cbit : (Instr.cbit 2048).wellFormed = false := by decide
theorem test_wf_extb_lane : (Instr.extb 32 0 0).wellFormed = false := by decide
theorem test_wf_extb_off : (Instr.extb 0 8 0).wellFormed = false := by decide
theorem test_wf_extb_len : (Instr.extb 0 0 16).wellFormed = false := by decide
theorem test_wf_extl : (Instr.extl 32).wellFormed = false := by decide
theorem test_wf_xpe_in : (Instr.xpe 32 0).wellFormed = false := by decide
theorem test_wf_xpe_out : (Instr.xpe 0 32).wellFormed = false := by decide
theorem test_wf_rdrc : (Instr.rdrc 32).wellFormed = false := by decide
theorem test_wf_rdrho : (Instr.rdrho 32).wellFormed = false := by decide
/-- R89: `XORB 25, 0, 1` assembles; the block rejects it at run time. -/
theorem test_wf_out_of_range : assemble (.xorb 25 0 1) = some 0x00001193 := by decide

/-! ### Decoding: words written out bit by bit from the formats R74 to R79 -/

/-- Format N, OP 0001. -/
theorem test_decode_cinit : decode 0b0000000000000000000000000000_0001 = .ok .cinit := by decide
/-- Format N, OP 0010. -/
theorem test_decode_sinit : decode 0b0000000000000000000000000000_0010 = .ok .sinit := by decide
/-- Format LB: reserved, LEN 0101, OFF 011, LANE 00011, OP 0011 (R141's example). -/
theorem test_decode_xorb : decode 0b0000000000000000_0101_011_00011_0011 = .ok (.xorb 3 3 5) := by decide
/-- Format LC: reserved, CNT 11001, OP 0100. -/
theorem test_decode_xorl : decode 0b00000000000000000000000_11001_0100 = .ok (.xorl 25) := by decide
/-- Format BP: reserved, POS 11000111111, OP 0101 (R143's example). -/
theorem test_decode_cbit : decode 0b00000000000000000_11000111111_0101 = .ok (.cbit 1599) := by decide
/-- Format N, OP 0110. -/
theorem test_decode_perm : decode 0b0000000000000000000000000000_0110 = .ok .perm := by decide
/-- Format LB: reserved, LEN 0001, OFF 111, LANE 11000, OP 0111 (program P3). -/
theorem test_decode_extb : decode 0b0000000000000000_0001_111_11000_0111 = .ok (.extb 24 7 1) := by decide
/-- Format LC: reserved, CNT 00100, OP 1000 (R145's example). -/
theorem test_decode_extl : decode 0b00000000000000000000000_00100_1000 = .ok (.extl 4) := by decide
/-- Format XC: reserved, OCNT 00001, CNT 00010, OP 1001 (R146's example). -/
theorem test_decode_xpe : decode 0b000000000000000000_00001_00010_1001 = .ok (.xpe 2 1) := by decide
/-- Format IX: reserved, IDX 10111, OP 1010 (V1.4). -/
theorem test_decode_rdrc : decode 0b00000000000000000000000_10111_1010 = .ok (.rdrc 23) := by decide
/-- Format IX: reserved, IDX 11000, OP 1011 (V1.4). -/
theorem test_decode_rdrho : decode 0b00000000000000000000000_11000_1011 = .ok (.rdrho 24) := by decide
/-- R82: the all-zero word is illegal. -/
theorem test_decode_zero : decode 0 = .error .illegalOpcode := by decide
/-- 95_test_vectors.md section 5: XORB with bit 16. -/
theorem test_decode_reserved : decode 0x00010003 = .error .reservedBits := by decide
/-- V4.1, V4.10 and section 5: words of the encoder. -/
theorem test_encode_words :
    encode (.xorb 16 7 1) = 0x00001F03 ∧ encode (.extb 3 2 1) = 0x00001437 ∧ encode (.xpe 25 25) = 0x00003399 ∧
      encode (.xpe 0 4) = 0x00000809 ∧ encode (.cbit 64) = 0x00000405 ∧ encode (.rdrc 24) = 0x0000018A := by decide

/-! ### Small states -/

/-- A block after SINIT, with the given DIN bytes offered and one lane preset. -/
def ready (lane : Nat) (v : Lane) (din : List Byte) : State :=
  { State.reset with init := true, lanes := setLane zeroLanes lane v, dinIn := din }

/-- What is seen of a next state: status, err_cmd, the DOUT bytes taken and the DIN bytes left. -/
def seen (o : Host.Outcome State Fault Refusal) : Option (Word × Word × List Byte × List Byte) :=
  match o with
  | .next t => some (t.statusWord, t.errCmd, t.doutOut, t.dinIn)
  | _ => none

/-- One lane of a next state. -/
def seenLane (o : Host.Outcome State Fault Refusal) (l : Nat) : Option Lane :=
  match o with
  | .next t => some (laneAt t.lanes l)
  | _ => none

/-! ### Commands -/

/-- V1.4. -/
theorem test_cinit : seen (step (State.reset.withFetchWord 32 0x00000001)) = some (0, 0, [], []) := by decide
/-- V4.11: SINIT discards the old value. -/
theorem test_sinit_clears : seenLane (exec .sinit (ready 0 0x80 [])) 0 = some 0 := by decide
/-- V6.1, R140: status after SINIT. -/
theorem test_sinit_status : seen (step (State.reset.withFetchWord 32 0x00000002)) = some (2, 0, [], []) := by decide
/-- R141's example. -/
theorem test_xorb : seenLane (exec (.xorb 3 3 5) (ready 0 0 [0xAA, 0xBB, 0xCC, 0xDD, 0xEE])) 3 = some 0xEEDDCCBBAA000000 := by
  decide
/-- V4.1: the most significant byte, neighbours kept, one byte left offered. -/
theorem test_xorb_top : seenLane (exec (.xorb 0 7 1) (ready 0 0x11 [0xAB, 0xFF])) 0 = some 0xAB00000000000011 := by decide
/-- R142's example. -/
theorem test_xorl :
    seenLane (exec (.xorl 2) (ready 0 0 [0, 1, 2, 3, 4, 5, 6, 7, 8, 9, 10, 11, 12, 13, 14, 15])) 1 = some 0x0F0E0D0C0B0A0908 := by
  decide
/-- V4.4: XORL 0 takes no byte. -/
theorem test_xorl_zero : seen (exec (.xorl 0) (ready 0 7 [9])) = some (2, 0, [], [9]) := by decide
/-- V4.2. -/
theorem test_cbit : seenLane (exec (.cbit 1599) (ready 0 0 [])) 24 = some 0x8000000000000000 := by decide
/-- V4.2. -/
theorem test_cbit_next_lane : seenLane (exec (.cbit 64) (ready 1 1 [])) 1 = some 0 := by decide
/-- V4.3. -/
theorem test_extb : seen (exec (.extb 3 2 4) (ready 3 0xEEDDCCBBAA000000 [])) = some (2, 0, [0, 0xAA, 0xBB, 0xCC], []) := by decide
/-- V4.5's bytes of lane 0 of KeccakF(0). -/
theorem test_extl :
    seen (exec (.extl 1) (ready 0 0xF1258F7940E1DDE7 [])) =
      some (2, 0, [0xE7, 0xDD, 0xE1, 0x40, 0x79, 0x8F, 0x25, 0xF1], []) := by decide
/-- V1.4: RDRC 23. -/
theorem test_rdrc : seen (step (State.reset.withFetchWord 32 0x0000017A)) =
    some (0, 0, [0x08, 0x80, 0x00, 0x80, 0x00, 0x00, 0x00, 0x80], []) := by decide
/-- V1.4: RDRHO 2. -/
theorem test_rdrho : seen (step (State.reset.withFetchWord 32 0x0000002B)) = some (0, 0, [0x3E], []) := by decide
/-- V3.1: KeccakF(0), lanes 0, 1 and 24. -/
theorem test_perm :
    (keccakF zeroLanes)[0] = 0xF1258F7940E1DDE7 ∧ (keccakF zeroLanes)[1] = 0x84D5CCF933C0478A ∧
      (keccakF zeroLanes)[24] = 0xEAF1FF7B5CECA249 := by decide +kernel
/-- V4.9: XPE 2, 1. -/
theorem test_xpe :
    seen (exec (.xpe 2 1) (ready 0 0 [0, 1, 2, 3, 4, 5, 6, 7, 8, 9, 10, 11, 12, 13, 14, 15])) =
      some (2, 0, [0x85, 0x27, 0x2C, 0x0B, 0x32, 0x16, 0x80, 0x62], []) := by decide +kernel

/-! ### Errors and waiting -/

/-- V3.3: PERM before SINIT. -/
theorem test_perm_not_init : seen (step (State.reset.withFetchWord 32 6)) = some (0x84, 6, [], []) := by decide
/-- Program P4: XORL 1 before SINIT takes no DIN byte. -/
theorem test_xorl_not_init :
    seen (step ({ State.reset with dinIn := [1, 2] }.withFetchWord 32 0x14)) = some (0x84, 0x14, [], [1, 2]) := by decide
/-- Section 5: XORB 25, 0, 9 reports LANE_RANGE, with INIT = 1. -/
theorem test_priority : seen (step ((ready 0 0 []).withFetchWord 32 0x9193)) = some (0x36, 0x9193, [], []) := by decide
/-- Section 5: the all-zero word. -/
theorem test_illegal : seen (step ((ready 0 0 []).withFetchWord 32 0)) = some (0x16, 0, [], []) := by decide
/-- Section 5: CBIT 1600 and XORB 0, 4, 5. -/
theorem test_bit_and_byte_range :
    seen (step ((ready 0 0 []).withFetchWord 32 0x6405)) = some (0x66, 0x6405, [], []) ∧
      seen (step ((ready 0 0 []).withFetchWord 32 0x5803)) = some (0x46, 0x5803, [], []) := by decide
/-- Section 5: XPE 0, 26; V1.4: RDRHO 25 right after reset. -/
theorem test_count_and_index_range :
    seen (step ((ready 0 0 []).withFetchWord 32 0x3409)) = some (0x56, 0x3409, [], []) ∧
      seen (step (State.reset.withFetchWord 32 0x19B)) = some (0x74, 0x19B, [], []) := by decide
/-- R226: XORB 0, 0, 2 with one byte offered waits, BUSY = 1. -/
theorem test_waits : seen (exec (.xorb 0 0 2) (ready 0 0 [5])) = some (3, 0, [], []) := by decide

/-! ### Constants and the step functions -/

/-- V1.1: the LFSR register at the start of rounds 0 to 3 and after the permutation. -/
theorem test_lfsr : lfsrAt 1 = 0x80 ∧ lfsrAt 2 = 0xD8 ∧ lfsrAt 3 = 0x1A ∧ lfsrAt 24 = 0x8E := by decide +kernel
/-- V2.2: theta on lane 6 with its top bit set. -/
theorem test_theta :
    let t := theta (setLane zeroLanes 6 0x8000000000000000)
    t[0] = 1 ∧ t[2] = 0x8000000000000000 ∧ t[6] = 0x8000000000000000 ∧ t[20] = 1 ∧ t[1] = 0 := by decide +kernel
/-- V2.4: rho on the state with every lane 1. -/
theorem test_rho : let t := rho (Vector.replicate 25 1); t[0] = 1 ∧ t[2] = 0x4000000000000000 ∧ t[8] = 1 <<< 55 := by
  decide +kernel
/-- V2.5: pi on the state whose lane i holds i. -/
theorem test_pi : pi (Vector.ofFn fun i : Fin 25 => i.val) =
    #v[0, 6, 12, 18, 24, 3, 9, 10, 16, 22, 1, 7, 13, 19, 20, 4, 5, 11, 17, 23, 2, 8, 14, 15, 21] := by decide +kernel
/-- V2.7: chi on the row F0, CC, AA. -/
theorem test_chi :
    let t := chi (setLane (setLane (setLane zeroLanes 0 0xF0) 1 0xCC) 2 0xAA)
    t[0] = 0xD2 ∧ t[1] = 0xCC ∧ t[2] = 0xAA ∧ t[3] = 0xF0 ∧ t[4] = 0x0C := by decide +kernel
/-- V2.9: Round(0, 1) leaves 0x8082 in lane 0 and nothing else. -/
theorem test_round : keccakRound zeroLanes 1 = setLane zeroLanes 0 0x8082 := by decide +kernel

/-! ### Raw forms -/

/-- V7.1. -/
theorem test_ilv : ilv 0x0123456789ABCDEF = (0x11BB11BB, 0x0505AFAF) := by decide +kernel
/-- V7.2, k = 31 and k = 63. -/
theorem test_ilv_rotl :
    ilvRotl (0x11BB11BB, 0x0505AFAF) 31 = (0xAFAF0505, 0x88DD88DD) ∧
      ilvRotl (0x11BB11BB, 0x0505AFAF) 63 = (0x0505AFAF, 0x88DD88DD) := by decide +kernel
/-- V8.1: the raw pattern of SINIT under P_COMPLEMENT. -/
theorem test_raw_sinit :
    ∃ v, rawSinit ⟨false, true, .one, .rom⟩ = .whole v ∧ v[0] = 0 ∧ v[1] = BitVec.allOnes 64 ∧ v[17] = BitVec.allOnes 64 :=
  ⟨_, rfl, by decide +kernel⟩
/-- V8.5: XORB into a complemented lane, and its extraction. -/
theorem test_raw_xorb :
    let p : BuildParams := ⟨false, true, .one, .rom⟩
    let r := (rawCommand p [0x5A] (rawSinit p) (.xorb 1 0 1)).1
    (r.load)[1] = 0xFFFFFFFFFFFFFFA5 ∧ (rawCommand p [] r (.extb 1 0 1)).2 = [0x5A] := by decide +kernel
/-- V7.4: CBIT 63 flips bit 31 of lane 0's odd half. -/
theorem test_raw_cbit :
    (rawCommand ⟨true, false, .one, .rom⟩ [] (.halves (Vector.replicate 50 0)) (.cbit 63)).1 =
      .halves ((Vector.replicate 50 0).set 1 0x80000000) := by decide +kernel

/-! ### Ports -/

/-- R242: after a reset edge the block is ready, with status and err_cmd 0. -/
theorem test_reset_edge :
    (clock ⟨true, none, none, false⟩ false (ready 0 5 [])).ports false = ⟨true, false, none, 0, 0⟩ := by decide
/-- R72: a command with DIN bytes puts the block in phase DIN; status shows BUSY and INIT. -/
theorem test_port_din :
    (clock ⟨false, some 0x1003, none, false⟩ false (ready 0 5 [])).ports false = ⟨false, true, none, 3, 0⟩ := by decide

/-! ### Witnesses: states and operands that meet the hypotheses of each statement, at the ends of their ranges -/

/-- A block after SINIT that is offered 200 DIN bytes. -/
def fed : State := ready 24 5 (List.replicate 200 1)

/-- A block that has rejected PERM before SINIT. -/
def stuck : State := State.reset.raiseError .notInit 6

/-- A block waiting for the second byte of XORB 0, 0, 2 (0x2003). -/
def waiting : State := { ready 0 0 [] with busy := true, phase := .din, cmdWord := 0x2003, dinBuf := [5] }

/-- A block in phase EXEC of PERM, with the engine loaded and no round done. -/
def permuting : State :=
  { ready 0 0 [] with
    busy := true, phase := .exec, cmdWord := 6, engine := Engine.reset.load Config.build.rcSource (ready 0 0 []).lanes }

/-- A block in phase EXEC of SINIT. -/
def starting : State := { State.reset with busy := true, phase := .exec, cmdWord := 2 }

/-- A block that is giving the byte of RDRHO 2. -/
def giving : State := { State.reset with busy := true, phase := .dout, cmdWord := 0x2B, doutPend := [0x3E] }

theorem witness_DecodeOfEncodeIsIdentity :
    (Instr.xorb 31 7 15).WellFormed ∧ (Instr.cbit 2047).WellFormed ∧ (Instr.xpe 31 31).WellFormed ∧
      (Instr.rdrho 31).WellFormed := by decide
theorem witness_EncodeOfDecodeIsIdentity : decode 0x0000FFF3 = .ok (.xorb 31 7 15) := by decide
theorem witness_DecodeFollowsTheOpcodeTable :
    (decode 0x000063F5 = .ok (.cbit 1599) ∧ opcodeTable[4]? = some (0x00000005, 0xFFFF800F)) ∧
      decode 0xFFFFFFFF = .error .illegalOpcode ∧ ((0x00000001, 0xFFFFFFFF) : Word × Word) ∈ opcodeTable := by decide
theorem witness_IllegalAndMalformedWordsAreRejected :
    decode 0x80000001 = .error .reservedBits ∧ fed.halted = false ∧ fed.phase = .idle ∧
      ({ fed with cmdIn := [0x80000001] } : State).cmdIn = [0x80000001] := by decide
theorem witness_ErrorEntryOfARejectedWord :
    let s : State := { fed with cmdIn := [0x6405, 2] }
    s.halted = false ∧ s.phase = .idle ∧ s.cmdIn = 0x6405 :: [2] ∧ checkWord 0x6405 s.init ≠ .none := by decide
/-- A halted state that meets the invariant. -/
theorem witness_HaltedBlockIsStuck : stuck.Inv ∧ stuck.err = true :=
  ⟨by constructor <;> decide, rfl⟩
theorem witness_HaltedBlockIsStuck_clock : ({ rst := false, cmd := some 2, din := none, doutReady := true } : PortsIn).rst = false :=
  rfl
theorem witness_StepRunsTheDecodedCommand :
    let s : State := { fed with cmdIn := [0x3399] }
    (s.halted = false ∧ s.phase = .idle ∧ s.cmdIn = 0x3399 :: [] ∧ decode 0x3399 = .ok (.xpe 25 25)) ∧
      decode 0xC = .error .illegalOpcode ∧ fed.cmdIn = [] := by decide
theorem witness_RejectedCommandHasNoEffect :
    fed.halted = false ∧ check (.xorb 25 0 1) fed.init ≠ .none ∧ check (.rdrc 24) fed.init ≠ .none := by decide
theorem witness_InitIsSetBySinitAlone :
    State.reset.halted = false ∧ State.reset.init = false ∧ needsInit (.xpe 25 25) = true ∧
      rangeCheck (.xpe 25 25) = .none := by decide
/-- Another command than SINIT that answers a next state; and a reset edge. -/
theorem witness_InitIsSetBySinitAlone_others :
    Instr.perm ≠ .sinit ∧ (∃ t, exec .perm fed = .next t) ∧ (PortsIn.mk true none none false).rst = true :=
  ⟨by decide, ⟨_, rfl⟩, rfl⟩
/-- A clock edge that changes INIT: the EXEC edge of SINIT. -/
theorem witness_InitIsSetBySinitAlone_edge :
    (PortsIn.mk false none none false).rst = false ∧
      (clock ⟨false, none, none, false⟩ true starting).init ≠ starting.init := by decide
theorem witness_FramingIsFixedByTheCommand :
    fed.halted = false ∧ check (.xpe 25 25) fed.init = .none ∧ nin (.xpe 25 25) ≤ fed.dinIn.length ∧
      check (.xpe 26 25) fed.init ≠ .none := by decide +kernel
theorem witness_StarvedCommandWaits :
    (ready 0 0 [5]).halted = false ∧ check (.xorb 0 0 2) true = .none ∧
      (ready 0 0 [5]).dinIn.length < nin (.xorb 0 0 2) := by decide
theorem witness_LateBytesCompleteTheCommand :
    check (.xorl 1) (ready 0 0 [5]).init = .none ∧ (ready 0 0 [5]).dinIn.length < nin (.xorl 1) ∧
      ∃ t, exec (.xorl 1) (ready 0 0 [5]) = .next t := ⟨by decide, by decide, _, rfl⟩
/-- CINIT and SINIT ask only that the block is not halted; here right after reset. -/
theorem witness_CinitDoesNothing : State.reset.halted = false := by decide
theorem witness_SinitClearsTheState : State.reset.halted = false ∧ fed.halted = false := by decide
/-- The last lane's last byte, a whole lane, and no byte at all. -/
theorem witness_XorbXorsTheNamedBytes :
    (24 ≤ 24 ∧ 7 + 1 ≤ 8 ∧ fed.init = true ∧ fed.halted = false ∧ 1 ≤ fed.dinIn.length) ∧
      (0 + 8 ≤ 8 ∧ 8 ≤ fed.dinIn.length) ∧ 8 + 0 ≤ 8 := by decide +kernel
theorem witness_XorlXorsTheLeadingBytes :
    25 ≤ 25 ∧ fed.init = true ∧ fed.halted = false ∧ 8 * 25 ≤ fed.dinIn.length ∧ 8 * 0 ≤ fed.dinIn.length := by decide +kernel
theorem witness_CbitFlipsOneBit : 1599 ≤ 1599 ∧ fed.init = true ∧ fed.halted = false := by decide
theorem witness_PermAppliesKeccakF : fed.init = true ∧ fed.halted = false := by decide
theorem witness_ExtbGivesTheNamedBytes : 24 ≤ 24 ∧ 7 + 1 ≤ 8 ∧ fed.init = true ∧ fed.halted = false := by decide
theorem witness_ExtlGivesTheLeadingBytes : 25 ≤ 25 ∧ fed.init = true ∧ fed.halted = false := by decide
theorem witness_XpeXorsPermutesExtracts :
    25 ≤ 25 ∧ fed.init = true ∧ fed.halted = false ∧ 8 * 25 ≤ fed.dinIn.length := by decide +kernel
theorem witness_RdrcGivesTheRoundConstant : 23 ≤ 23 ∧ State.reset.halted = false := by decide
theorem witness_RdrhoGivesTheRotationOffset : 24 < 25 ∧ State.reset.halted = false := by decide
theorem witness_XpeEqualsTheThreeCommands :
    25 ≤ 25 ∧ fed.init = true ∧ fed.halted = false ∧ 8 * 25 ≤ fed.dinIn.length := by decide +kernel
theorem witness_XorThenExtractGivesTheData :
    (25 ≤ 25 ∧ fed.halted = false ∧ (List.replicate 200 (1 : Byte)).length = 8 * 25 ∧
      fed.dinIn = List.replicate 200 1 ++ []) ∧
      24 ≤ 24 ∧ 7 + [(1 : Byte)].length ≤ 8 ∧ fed.dinIn = [1] ++ List.replicate 199 1 := by decide +kernel
theorem witness_ExtractionChangesNothing :
    (∃ t, exec (.extb 24 7 1) fed = .next t) ∧ (∃ t, exec (.extl 25) fed = .next t) ∧
      ((∃ n, Instr.extl 25 = .extl n) ∨ ∃ l o n, Instr.extl 25 = .extb l o n) ∧ fed.halted = false ∧
      check (.extl 25) fed.init = .none :=
  ⟨⟨_, rfl⟩, ⟨_, rfl⟩, .inl ⟨_, rfl⟩, by decide, by decide⟩
theorem witness_CbitIsXorbOfOneByte :
    1599 ≤ 1599 ∧ fed.init = true ∧ fed.halted = false ∧
      ({ fed with dinIn := [0x80] } : State).dinIn = (1 <<< (1599 % 8) : Byte) :: [] := by decide
theorem witness_FrameOfCommandsThatWriteNoLane :
    (∃ t, exec .cinit fed = .next t) ∧ (∃ t, exec (.extb 24 0 8) fed = .next t) ∧ (∃ t, exec (.extl 25) fed = .next t) ∧
      (∃ t, exec (.rdrc 23) fed = .next t) ∧ ∃ t, exec (.rdrho 24) fed = .next t :=
  ⟨⟨_, rfl⟩, ⟨_, rfl⟩, ⟨_, rfl⟩, ⟨_, rfl⟩, _, rfl⟩
theorem witness_FrameOfXorCommands :
    (∃ t, exec (.xorb 24 7 1) fed = .next t) ∧ (∃ t, exec (.xorl 25) fed = .next t) ∧ ∃ t, exec (.cbit 1599) fed = .next t :=
  ⟨⟨_, (exec_xorb 24 7 1 fed).trans (perform_done (by decide) (by decide) (by decide +kernel))⟩,
    ⟨_, (exec_xorl 25 fed).trans (perform_done (by decide) (by decide) (by decide +kernel))⟩,
    _, (exec_cbit 1599 fed).trans (perform_done (by decide) (by decide) (by decide +kernel))⟩
theorem witness_FrameOfCommandsThatWriteEveryLane :
    (∃ t, exec .sinit fed = .next t) ∧ (∃ t, exec .perm fed = .next t) ∧ ∃ t, exec (.xpe 25 25) fed = .next t :=
  ⟨⟨_, rfl⟩, ⟨_, rfl⟩, _, (exec_xpe 25 25 fed).trans (perform_done (by decide) (by decide) (by decide +kernel))⟩
/-- A command performed, and one rejected. -/
theorem witness_OnlyTheErrorEntryWritesTheErrorRegisters :
    (∃ t, exec .sinit fed = .next t) ∧ ∃ t, exec (.xorb 25 0 1) fed = .next t := ⟨⟨_, rfl⟩, _, rfl⟩
theorem witness_RoundConstantsAreTheLfsrs : 23 < 24 ∧ 63 < 64 ∧ (rc 23).getLsbD 63 = true := by decide +kernel
/-- The clause about the LFSR register: the source is LFSR in one of the builds. -/
theorem witness_EngineComputesKeccakF : (⟨false, false, .one, .lfsr⟩ : BuildParams).rcSource = .lfsr := by decide
theorem witness_RotationMovesEveryBit : 63 < 64 := by decide
theorem witness_RoundStepsAtEveryPosition : 4 < 5 := by decide
theorem witness_InterleavingCommutesWithBitwise : 31 < 32 ∧ 7 < 8 ∧ 3 < 4 := by decide
theorem witness_HalvesRotateAsTheLane : 63 < 64 := by decide
/-- All four forms of the build are met. -/
theorem witness_DecodingTheRawFormGivesTheLanes :
    (⟨false, true, .one, .rom⟩ : BuildParams).interleave = false ∧
      (⟨true, true, .one, .rom⟩ : BuildParams).interleave = true ∧ 24 < 25 := by decide
theorem witness_RawRoundIsTheRound : 23 < 24 := by decide
theorem witness_EveryCommandAgreesOnTheRawForm :
    let s : State := { fed with dinBuf := List.replicate 200 1 }
    rangeCheck (.xpe 25 25) = .none ∧ s.doutPend = [] ∧ s.dinBuf.length = nin (.xpe 25 25) := by decide +kernel
theorem witness_ResetValues : (PortsIn.mk true (some 2) none false).rst = true := by decide

/-! The invariants hold in a state of each phase, and those states step. -/

theorem inv_fed : fed.Inv := by constructor <;> decide
theorem inv_stuck : stuck.Inv := by constructor <;> decide
theorem inv_waiting : waiting.Inv := by constructor <;> decide
theorem inv_permuting : permuting.Inv where
  err_iff_halt := by simp [permuting, ready, State.reset]
  code_none := fun _ => ⟨rfl, rfl⟩
  code_some := fun h => nomatch h
  busy_iff := by simp [permuting]
  no_din := fun _ => rfl
  no_dout := fun _ => rfl
  in_progress := fun _ => by decide
theorem inv_giving : giving.Inv := by constructor <;> decide

theorem witness_StepKeepsTheInvariant : fed.Inv ∧ ∃ t, step fed = .next t := ⟨inv_fed, _, rfl⟩
theorem witness_StepKeepsTheInvariant_waiting : waiting.Inv ∧ ∃ t, step waiting = .next t := ⟨inv_waiting, _, rfl⟩
theorem witness_StepKeepsTheInvariant_giving : giving.Inv ∧ ∃ t, step giving = .next t := ⟨inv_giving, _, rfl⟩

/-- The host offers SINIT to a block that meets the clock's invariant. -/
def offered : State := { fed with cmdIn := [2] }

theorem clockInv_offered : offered.ClockInv where
  toInv := by constructor <;> decide
  din_short := fun h => nomatch h
  din_full := fun h => nomatch h
  dout_some := fun h => nomatch h
  rounds_done := fun h => nomatch h
theorem clockInv_waiting : waiting.ClockInv where
  toInv := inv_waiting
  din_short := fun _ => ⟨.xorb 0 0 2, by decide⟩
  din_full := fun h => nomatch h
  dout_some := fun h => nomatch h
  rounds_done := fun h => nomatch h
theorem clockInv_permuting : permuting.ClockInv where
  toInv := inv_permuting
  din_short := fun h => nomatch h
  din_full := fun _ => ⟨.perm, rfl, rfl⟩
  dout_some := fun h => nomatch h
  rounds_done := fun _ i a hd hp => by
    have hi : i = .perm := by cases hd; rfl
    subst hi
    cases hp
    exact ⟨0, Engine.reset, by simp, by simp [Engine.runRounds, permuting]⟩
theorem witness_ClockKeepsItsInvariant : offered.ClockInv ∧ waiting.ClockInv ∧ permuting.ClockInv :=
  ⟨clockInv_offered, clockInv_waiting, clockInv_permuting⟩
theorem witness_ClockRefinesTheStep :
    offered.ClockInv ∧ offered.phase = .idle ∧ offered.err = false ∧ (⟨true, true, true, true⟩ : Move).cmd = true ∧
      offered.cmdIn ≠ [] := ⟨clockInv_offered, by decide⟩
theorem witness_ClockRefinesTheStep_later :
    permuting.ClockInv ∧ (permuting.phase ≠ .idle ∨ (⟨true, true, true, true⟩ : Move).cmd = false ∨ permuting.cmdIn = []) :=
  ⟨clockInv_permuting, .inl (fun h => nomatch h)⟩
theorem witness_CommandsFinishInFinitelyManyCycles :
    offered.ClockInv ∧ offered.phase = .idle ∧ offered.cmdIn ≠ [] ∧ ∃ t, step offered = .next t ∧ t.phase ≠ .din :=
  ⟨clockInv_offered, rfl, by decide, _, rfl, by decide⟩
/-- Two blocks that differ in A before SINIT and in the working registers, both offered SINIT. -/
theorem witness_UninitialisedStateIsNeverSeen :
    let s : State := { State.reset with cmdIn := [2] }
    let t : State := { s with lanes := setLane zeroLanes 7 9, engine := { Engine.reset with lfsr := 0x8E } }
    s.sameToHost t ∧ s.lanes ≠ t.lanes ∧ ∃ s', step s = .next s' :=
  ⟨⟨rfl, rfl, rfl, rfl, rfl, rfl, rfl, rfl, rfl, rfl, rfl, rfl, fun h => nomatch h⟩, by decide, _, rfl⟩
/-- And two halted ones. -/
theorem witness_UninitialisedStateIsNeverSeen_halted :
    let t : State := { stuck with lanes := setLane zeroLanes 7 9 }
    stuck.sameToHost t ∧ step stuck = .fault .halted :=
  ⟨⟨rfl, rfl, rfl, rfl, rfl, rfl, rfl, rfl, rfl, rfl, rfl, rfl, fun h => nomatch h⟩, rfl⟩

end Sys2Proof.Tests
end

/-! # Rotations (00_scope.md R11, 90_conflicts.md C5)

The model's rotation is the library's `BitVec.rotateLeft`, so the library's lemmas about it hold of `rotl`. -/
section

namespace Sys2Proof.Machine

/-- The model's case for the amount 0 (mod w) agrees with the library's rotation, which shifts right by the full width
there. -/
theorem rotl_eq_rotateLeft {w : Nat} (v : BitVec w) (k : Nat) : rotl v k = v.rotateLeft k := by
  rw [BitVec.rotateLeft_def, rotl]
  split
  next hk => simp [hk, BitVec.ushiftRight_eq_zero (Nat.le_refl w)]
  next => rfl

/-- The bit of `v` that a rotation by `k` moves to bit `j`, without the outer remainder: the bits below `k mod w` have
wrapped round, the others have moved up. -/
theorem getLsbD_rotl {w : Nat} (v : BitVec w) (k : Nat) {j : Nat} (hj : j < w) :
    (rotl v k).getLsbD j = if j < k % w then v.getLsbD (w - k % w + j) else v.getLsbD (j - k % w) := by
  rw [rotl_eq_rotateLeft, BitVec.getLsbD_rotateLeft]
  simp [hj]

/-- The source index of bit `j`, reduced mod w: the wrapped bits are already below `w`, the others lie one `w` above. -/
theorem rotl_source_mod {w k j : Nat} (hj : j < w) :
    (j + (w - k % w)) % w = if j < k % w then w - k % w + j else j - k % w := by
  have hk : k % w < w := Nat.mod_lt k (by omega)
  split
  next hwrap => rw [Nat.mod_eq_of_lt (by omega), Nat.add_comm]
  next hup =>
    have hsrc : j + (w - k % w) = (j - k % w) + w := by omega
    rw [hsrc, Nat.add_mod_right, Nat.mod_eq_of_lt (by omega)]

/-- Settles O40: the two cases of a rotation's bit are the two cases of the source index mod w. -/
theorem rotationMovesEveryBit : Obligations.RotationMovesEveryBit := by
  intro w v k j hj
  rw [getLsbD_rotl v k hj, rotl_source_mod hj, apply_ite v.getLsbD]

end Sys2Proof.Machine
end

/-! # A word that decodes is the word of its command (30_encoding.md R80, R88)

Fields that lie side by side make one field, so the operands placed beside the opcode give back the low bits of the word,
and with the reserved bits 0 the whole word. -/
section

namespace Sys2Proof

/-- The field of `n` low bits and the field of the `k` bits above it, each in its place, are the field of all of them. -/
theorem place_field_append (w : Word) (n k : Nat) :
    place (field w 0 n) 0 ||| place (field w n k) n = place (field w 0 (n + k)) 0 := by
  refine BitVec.eq_of_getLsbD_eq fun j hj => ?_
  simp only [BitVec.getLsbD_or, getLsbD_place, testBit_field]
  by_cases hn : j < n
  · simp [hn, hj, Nat.lt_add_right k hn]
  · have hk : j - n < k ↔ j < n + k := by omega
    simp [hn, hj, hk, Nat.add_sub_of_le (Nat.le_of_not_lt hn)]

/-- A word whose bits from `n` up are 0 is the field of its `n` low bits. -/
theorem place_field_of_reserved {w : Word} {n : Nat} (h : field w n (32 - n) = 0) : place (field w 0 n) 0 = w := by
  refine BitVec.eq_of_getLsbD_eq fun j hj => ?_
  simp only [getLsbD_place, testBit_field]
  by_cases hn : j < n
  · simp [hn, hj]
  · have hbit := congrArg (·.testBit (j - n)) h
    simp only [testBit_field, Nat.zero_testBit, Nat.add_sub_of_le (Nat.le_of_not_lt hn),
      decide_eq_true (by omega : j - n < 32 - n), Bool.true_and] at hbit
    simp [hn, hbit]

/-- The opcode is the field of the four low bits. -/
theorem opcode_eq_place {w : Word} {op : Nat} (h : field w 0 4 = op) : BitVec.ofNat 32 op = place (field w 0 4) 0 := by
  rw [h, place, BitVec.shiftLeft_zero]

/-- The opcode beside the first operand, which stands on bit 4 in every format that has one. -/
theorem opcode_or_place {w : Word} {op : Nat} (h : field w 0 4 = op) (k : Nat) :
    BitVec.ofNat 32 op ||| place (field w 4 k) 4 = place (field w 0 (4 + k)) 0 := by
  rw [opcode_eq_place h, place_field_append]

/-- No bit of a word that decodes is dropped: it is the word of the command it decodes to. One case for each opcode. -/
theorem encode_of_decode {w : Word} {i : Instr} (h : decode w = .ok i) : encode i = w := by
  unfold decode at h
  split at h
  case h_12 => cases h
  all_goals
    rename_i hop
    obtain ⟨hres, rfl⟩ := unreserved_eq_ok.mp h
    refine Eq.trans ?_ (place_field_of_reserved hres)
    rw [encode]
  case h_1 | h_2 | h_6 => exact opcode_eq_place hop
  case h_4 | h_5 | h_8 | h_10 | h_11 => exact opcode_or_place hop _
  case h_9 => rw [BitVec.ofNat_eq_ofNat, opcode_or_place hop, place_field_append]
  case h_3 | h_7 => rw [BitVec.ofNat_eq_ofNat, opcode_or_place hop, place_field_append, place_field_append]

end Sys2Proof
end

/-! # Running one command word (20_memory.md R60, 60_exceptions.md R212, R213)

What `runWord` answers, by the check of the word, with the accepted word itself where `perform` writes `encode i`; and what
a step can do, phase by phase. -/
section

namespace Sys2Proof.Machine

variable {w : Word} {i : Instr} {s t : State}

/-- The check of a word that decodes is the check of its command. -/
theorem checkWord_of_decode (hd : decode w = .ok i) (init : Bool) : checkWord w init = check i init := by
  rw [checkWord, hd]

/-- A word passes its check when it decodes to a command that passes its own: a decoding error is never NONE. -/
theorem checkWord_eq_none_iff {init : Bool} :
    checkWord w init = .none ↔ ∃ i, decode w = .ok i ∧ check i init = .none := by
  unfold checkWord
  split
  next j hd => simp [hd]
  next e hd => cases e <;> simp [hd, decodeErrorCode]

/-- A halted block has no step (R214). -/
theorem runWord_halted (hh : s.halted = true) : runWord w s = .fault .halted := by
  unfold runWord
  split
  · rw [exec_eq_perform, perform_halted hh]
  · rw [if_pos hh]

/-- A word that fails its check takes the error entry with that word, whether it decodes or not (R213). -/
theorem runWord_rejected (hh : s.halted = false) (hc : checkWord w s.init ≠ .none) :
    runWord w s = .next (s.raiseError (checkWord w s.init) w) := by
  unfold runWord
  split
  next i hd =>
    rw [checkWord_of_decode hd] at hc ⊢
    rw [exec_eq_perform, perform_rejected hh hc, encode_of_decode hd]
  next e hd => simp [hh, checkWord, hd]

/-- A word that passes its check and has its DIN bytes offered is performed whole. -/
theorem runWord_done (hh : s.halted = false) (hd : decode w = .ok i) (hc : check i s.init = .none)
    (hn : nin i ≤ s.dinIn.length) : runWord w s = .next (effectOf i (s.begin w (nin i))).drain := by
  simp only [runWord, hd, exec_eq_perform, perform_done hh hc hn, encode_of_decode hd]

/-- A word that passes its check and has too few DIN bytes offered waits for the rest. -/
theorem runWord_waits (hh : s.halted = false) (hd : decode w = .ok i) (hc : check i s.init = .none)
    (hn : s.dinIn.length < nin i) : runWord w s = .next (s.awaitDin w) := by
  simp only [runWord, hd, exec_eq_perform, perform_waits hh hc hn, encode_of_decode hd]

/-- Everything running a word can do, said once. -/
theorem runWord_cases (h : runWord w s = .next t) :
    s.halted = false ∧
      ((checkWord w s.init ≠ .none ∧ t = s.raiseError (checkWord w s.init) w) ∨
        ∃ i, decode w = .ok i ∧ check i s.init = .none ∧
          ((nin i ≤ s.dinIn.length ∧ t = (effectOf i (s.begin w (nin i))).drain) ∨
            (s.dinIn.length < nin i ∧ t = s.awaitDin w))) := by
  cases hh : s.halted
  case true => rw [runWord_halted hh] at h; cases h
  refine ⟨rfl, ?_⟩
  by_cases hc : checkWord w s.init = .none
  · obtain ⟨i, hd, hi⟩ := checkWord_eq_none_iff.mp hc
    refine .inr ⟨i, hd, hi, ?_⟩
    rcases Nat.lt_or_ge s.dinIn.length (nin i) with hn | hn
    · rw [runWord_waits hh hd hi hn] at h
      exact .inr ⟨hn, by cases h; rfl⟩
    · rw [runWord_done hh hd hi hn] at h
      exact .inl ⟨hn, by cases h; rfl⟩
  · rw [runWord_rejected hh hc] at h
    exact .inl ⟨hc, by cases h; rfl⟩

/-- Everything a step can do, by phase: an idle block holds its state or runs the word offered next, a command in progress
is run again from its start, and pending DOUT bytes are taken. -/
theorem step_cases (h : step s = .next t) :
    s.halted = false ∧
      ((s.phase = .idle ∧ s.cmdIn = [] ∧ t = s) ∨
        (s.phase = .idle ∧ ∃ w ws, s.cmdIn = w :: ws ∧ runWord w { s with cmdIn := ws } = .next t) ∨
        ((s.phase = .din ∨ s.phase = .exec) ∧ runWord s.cmdWord s.rewind = .next t) ∨
        (s.phase = .dout ∧ t = s.drain)) := by
  unfold step stepByPhase at h
  split at h
  next => cases h
  next hh =>
    refine ⟨by simpa using hh, ?_⟩
    split at h
    next hp =>
      unfold acceptNext at h
      split at h
      next hq => cases h; exact .inl ⟨hp, hq, rfl⟩
      next w ws hq => exact .inr (.inl ⟨hp, w, ws, hq, h⟩)
    next hp => exact .inr (.inr (.inl ⟨.inl hp, h⟩))
    next hp => exact .inr (.inr (.inl ⟨.inr hp, h⟩))
    next hp => cases h; exact .inr (.inr (.inr ⟨hp, rfl⟩))
    next => cases h

end Sys2Proof.Machine
end

/-! # The invariant of the status and phase registers (10_state.md R25 to R28, 30_encoding.md R72)

What the invariant asks for in each phase, and that every step keeps it. -/
section

namespace Sys2Proof.Machine

/-- No error is recorded: ERR, ERR_CODE and ERR_CMD hold their values from reset (R25 to R27, R35). -/
structure State.NoError (s : State) : Prop where
  err : s.err = false
  errCode : s.errCode = .none
  errCmd : s.errCmd = 0

variable {w : Word} {i : Instr} {s t : State}

/-- Outside HALT no error is recorded. -/
theorem State.Inv.noError (h : s.Inv) (hp : s.phase ≠ .halt) : s.NoError :=
  have herr : s.err = false := by simpa using mt h.err_iff_halt.mp hp
  ⟨herr, (h.code_none herr).1, (h.code_none herr).2⟩

/-- Only the three error registers matter to `NoError`. -/
theorem State.NoError.congr (h : s.NoError) (he : t.err = s.err) (hc : t.errCode = s.errCode)
    (hw : t.errCmd = s.errCmd) : t.NoError :=
  ⟨he.trans h.err, hc.trans h.errCode, hw.trans h.errCmd⟩

/-- A command's effect records no error. -/
theorem State.NoError.effectOf (h : s.NoError) (i : Instr) : (effectOf i s).NoError := by
  apply h.congr <;> simp [effectOf_keeps]

/-- The invariant of an idle block. -/
theorem State.Inv.of_idle (hp : s.phase = .idle) (he : s.NoError) (hb : s.busy = false) (hi : s.dinBuf = [])
    (ho : s.doutPend = []) : s.Inv where
  err_iff_halt := by simp [he.err, hp]
  code_none _ := ⟨he.errCode, he.errCmd⟩
  code_some h := by simp [he.err] at h
  busy_iff := by simp [hb, hp]
  no_din _ := hi
  no_dout _ := ho
  in_progress h := by simp [hp] at h

/-- The invariant of a block with a command in progress. -/
theorem State.Inv.of_busy (hp : s.phase = .din ∨ s.phase = .exec ∨ s.phase = .dout) (he : s.NoError)
    (hb : s.busy = true) (ho : s.phase ≠ .dout → s.doutPend = [])
    (hc : s.phase = .din ∨ s.phase = .exec → checkWord s.cmdWord s.init = .none) : s.Inv where
  err_iff_halt := by rcases hp with hp | hp | hp <;> simp [he.err, hp]
  code_none _ := ⟨he.errCode, he.errCmd⟩
  code_some h := by simp [he.err] at h
  busy_iff := by simp [hb, hp]
  no_din h := by rcases hp with hp | hp | hp <;> simp [hp] at h
  no_dout := ho
  in_progress := hc

/-- An idle block that rejects a word meets the invariant. -/
theorem State.Inv.raiseError (h : s.Inv) (hp : s.phase = .idle) {code : ErrorCode} (hc : code ≠ .none) (w : Word) :
    (s.raiseError code w).Inv where
  err_iff_halt := by simp
  code_none h := by simp at h
  code_some _ := by simpa using hc
  busy_iff := by simp
  no_din _ := by simpa using h.no_din (.inl hp)
  no_dout _ := by simpa using h.no_dout (by simp [hp])
  in_progress h := by simp at h

/-- A block that waits for the DIN bytes of a word that passed its check meets the invariant. -/
theorem State.Inv.awaitDin (he : s.NoError) (hc : checkWord w s.init = .none) : (s.awaitDin w).Inv :=
  .of_busy (.inl rfl) (he.congr rfl rfl rfl) rfl (fun _ => rfl) (fun _ => hc)

/-- A block whose DOUT bytes have all been taken meets the invariant. -/
theorem State.Inv.drain (he : s.NoError) : s.drain.Inv :=
  .of_idle rfl (he.congr rfl rfl rfl) rfl rfl rfl

/-- A command in progress, seen as not yet performed, is an idle block. -/
theorem State.Inv.rewind (h : s.Inv) (hp : s.phase = .din ∨ s.phase = .exec) : s.rewind.Inv := by
  have hhalt : s.phase ≠ .halt := by rcases hp with hp | hp <;> simp [hp]
  have hdout : s.phase ≠ .dout := by rcases hp with hp | hp <;> simp [hp]
  exact .of_idle rfl ((h.noError hhalt).congr rfl rfl rfl) rfl rfl (h.no_dout hdout)

/-- The invariant does not look at the host's command words. -/
theorem State.Inv.with_cmdIn (h : s.Inv) (ws : List Word) : State.Inv { s with cmdIn := ws } :=
  ⟨h.err_iff_halt, h.code_none, h.code_some, h.busy_iff, h.no_din, h.no_dout, h.in_progress⟩

/-- Running a word from an idle block keeps the invariant, whether the word is performed, waits or is rejected. -/
theorem runWord_keeps_inv (h : s.Inv) (hp : s.phase = .idle) (hr : runWord w s = .next t) : t.Inv := by
  have he : s.NoError := h.noError (by simp [hp])
  obtain ⟨-, ⟨hc, rfl⟩ | ⟨i, hd, hc, ⟨-, rfl⟩ | ⟨-, rfl⟩⟩⟩ := runWord_cases hr
  · exact h.raiseError hp hc w
  · exact .drain (State.NoError.effectOf (s := s.begin w (nin i)) (he.congr rfl rfl rfl) i)
  · exact .awaitDin he ((checkWord_of_decode hd _).trans hc)

/-- Settles O55: each case of a step is a hold, a word run from an idle block, or the end of phase DOUT. -/
theorem stepKeepsTheInvariant : Obligations.StepKeepsTheInvariant := by
  intro s t h hs
  obtain ⟨-, ⟨-, -, rfl⟩ | ⟨hp, w, ws, -, hr⟩ | ⟨hp, hr⟩ | ⟨hp, rfl⟩⟩ := step_cases hs
  · exact h
  · exact runWord_keeps_inv (h.with_cmdIn ws) hp hr
  · exact runWord_keeps_inv (h.rewind hp) rfl hr
  · exact .drain (h.noError (by simp [hp]))

end Sys2Proof.Machine
end

/-! # The invariant of the clocked block (10_state.md R34, 30_encoding.md R72, 70_reset_and_hazards.md R240)

What the clock's invariant asks for in each phase, and what each edge of the clock does to it: the cmd transfer, the din
transfer, the EXEC edge, the dout transfer and the reset edge. -/
section

namespace Sys2Proof.Machine

/-- Command `i` is in progress: it is latched and has passed its check, and has given no DOUT byte yet (R72, R212). -/
structure State.Running (i : Instr) (s : State) : Prop where
  noError : s.NoError
  busy : s.busy = true
  doutPend : s.doutPend = []
  decodes : decode s.cmdWord = .ok i
  passes : check i s.init = .none

variable {w : Word} {b : Byte} {i : Instr} {s t : State}

/-! ### The invariant phase by phase -/

/-- No command is in progress, so the clock's invariant asks nothing more. -/
theorem State.Inv.clockInv (h : s.Inv) (hp : s.phase = .idle ∨ s.phase = .halt) : s.ClockInv where
  toInv := h
  din_short hd := by simp [hd] at hp
  din_full hx := by simp [hx] at hp
  dout_some ho := by simp [ho] at hp
  rounds_done hx := by simp [hx] at hp

/-- The clock's invariant of an idle block. -/
theorem State.ClockInv.of_idle (hp : s.phase = .idle) (he : s.NoError) (hb : s.busy = false) (hi : s.dinBuf = [])
    (ho : s.doutPend = []) : s.ClockInv :=
  (State.Inv.of_idle hp he hb hi ho).clockInv (.inl hp)

/-- A command in progress in phase DIN or EXEC meets the invariant. -/
theorem State.Running.inv (h : s.Running i) (hp : s.phase = .din ∨ s.phase = .exec) : s.Inv :=
  .of_busy (hp.imp_right .inl) h.noError h.busy (fun _ => h.doutPend)
    (fun _ => (checkWord_of_decode h.decodes _).trans h.passes)

/-- The clock's invariant in phase DIN: some DIN byte is still to come. -/
theorem State.Running.clockInv_of_din (h : s.Running i) (hp : s.phase = .din) (hl : s.dinBuf.length < nin i) :
    s.ClockInv where
  toInv := h.inv (.inl hp)
  din_short _ := ⟨i, h.decodes, hl⟩
  din_full hx := by simp [hp] at hx
  dout_some ho := by simp [hp] at ho
  rounds_done hx := by simp [hp] at hx

/-- The clock's invariant in phase EXEC: all DIN bytes are taken, and the engine holds `k` cycles' rounds of a permutation. -/
theorem State.Running.clockInv_of_exec (h : s.Running i) (hp : s.phase = .exec) (hl : s.dinBuf.length = nin i)
    (hr : ∀ a, permInput s i = some a → ∃ (k : Nat) (e : Engine), k * Config.build.roundsPerCycle.count < 24 ∧
      s.engine = Engine.runRounds Config.build.rcSource (k * Config.build.roundsPerCycle.count)
        (e.load Config.build.rcSource a)) : s.ClockInv where
  toInv := h.inv (.inr hp)
  din_short hd := by simp [hp] at hd
  din_full _ := ⟨i, h.decodes, hl⟩
  dout_some ho := by simp [hp] at ho
  rounds_done _ j a hd ha := by
    cases h.decodes.symm.trans hd
    exact hr a ha

/-- The clock's invariant in phase DOUT: some DOUT byte is still to be taken. -/
theorem State.ClockInv.of_dout (hp : s.phase = .dout) (he : s.NoError) (hb : s.busy = true) (ho : s.doutPend ≠ []) :
    s.ClockInv where
  toInv := .of_busy (.inr (.inr hp)) he hb (fun hn => absurd hp hn) (fun hn => by simp [hp] at hn)
  din_short hd := by simp [hp] at hd
  din_full hx := by simp [hp] at hx
  dout_some _ := ho
  rounds_done hx := by simp [hp] at hx

/-- In phase DIN or EXEC the latched word is that of a command in progress. -/
theorem State.Inv.running (h : s.Inv) (hp : s.phase = .din ∨ s.phase = .exec) (hd : decode s.cmdWord = .ok i) :
    s.Running i where
  noError := h.noError (by rcases hp with hp | hp <;> simp [hp])
  busy := h.busy_iff.mpr (hp.imp_right .inl)
  doutPend := h.no_dout (by rcases hp with hp | hp <;> simp [hp])
  decodes := hd
  passes := (checkWord_of_decode hd _).symm.trans (h.in_progress hp)

/-- The latched command is the one in progress. -/
theorem State.latched_eq (hd : decode s.cmdWord = .ok i) : s.latched = some i := by
  rw [State.latched, hd]

/-! ### The edges -/

/-- A permutation's lanes come from A and the DIN bytes alone. -/
theorem permInput_congr (hl : t.lanes = s.lanes) (hd : t.dinBuf = s.dinBuf) (i : Instr) :
    permInput t i = permInput s i := by
  cases i <;> simp [permInput, hl, hd]

/-- Phase EXEC is entered with the engine loaded and no round done. -/
theorem State.Running.enterExec (h : s.Running i) (hl : s.dinBuf.length = nin i) : s.enterExec.ClockInv := by
  have hrun : s.enterExec.Running i := ⟨h.noError.congr rfl rfl rfl, h.busy, h.doutPend, h.decodes, h.passes⟩
  refine hrun.clockInv_of_exec rfl hl fun a ha => ⟨0, s.engine, by simp, ?_⟩
  rw [permInput_congr (t := s.enterExec) (s := s) rfl rfl] at ha
  simp [State.enterExec, State.latched_eq h.decodes, ha, Engine.runRounds]

/-- A cmd transfer: the error entry, phase DIN with no byte taken, or phase EXEC of a command without DIN bytes. -/
theorem State.Inv.acceptWord (h : s.Inv) (hp : s.phase = .idle) (w : Word) : (s.acceptWord w).ClockInv := by
  unfold State.acceptWord
  split
  next hc =>
    obtain ⟨i, hd, hi⟩ := checkWord_eq_none_iff.mp hc
    have he : s.NoError := h.noError (by simp [hp])
    set t : State := { s with busy := true, cmdWord := w, dinBuf := [], doutPend := [] }
    have hrun : t.Running i := ⟨he.congr rfl rfl rfl, rfl, rfl, hd, hi⟩
    simp only [State.latched_eq hrun.decodes]
    split
    next hn =>
      have hdin : State.Running i { t with phase := .din } := ⟨he.congr rfl rfl rfl, rfl, rfl, hd, hi⟩
      exact hdin.clockInv_of_din rfl hn
    next hn => exact hrun.enterExec (Nat.eq_zero_of_not_pos hn).symm
  next hc => exact (h.raiseError hp hc w).clockInv (.inr rfl)

/-- A din transfer: the phase stays DIN while bytes are missing, and the last byte ends it. -/
theorem State.ClockInv.takeByte (h : s.ClockInv) (hp : s.phase = .din) (b : Byte) : (s.takeByte b).ClockInv := by
  obtain ⟨i, hd, hl⟩ := h.din_short hp
  have hs : s.Running i := h.running (.inl hp) hd
  unfold State.takeByte
  set t : State := { s with dinBuf := s.dinBuf ++ [b] } with ht
  have hrun : t.Running i := ⟨hs.noError.congr rfl rfl rfl, hs.busy, hs.doutPend, hd, hs.passes⟩
  have hlen : t.dinBuf.length = s.dinBuf.length + 1 := by simp [ht]
  simp only [State.latched_eq hrun.decodes]
  split
  next hn => exact hrun.clockInv_of_din hp hn
  next hn => exact hrun.enterExec (by omega)

/-- The end of EXEC: the command has finished, or some DOUT byte is pending. -/
theorem State.endExec_clockInv (he : s.NoError) (hb : s.busy = true) : s.endExec.ClockInv := by
  unfold State.endExec
  split
  next ho => exact .of_idle rfl (he.congr rfl rfl rfl) rfl rfl ho
  next ho => exact .of_dout rfl (he.congr rfl rfl rfl) hb ho

/-- The end of a permutation leaves INIT, the error registers and BUSY. -/
theorem commitPermutation_keeps (i : Instr) (e : Engine) (s : State) :
    (s.commitPermutation i e).err = s.err ∧ (s.commitPermutation i e).errCode = s.errCode ∧
      (s.commitPermutation i e).errCmd = s.errCmd ∧ (s.commitPermutation i e).busy = s.busy ∧
      (s.commitPermutation i e).init = s.init := by
  cases i <;> simp [State.commitPermutation]

/-- The round counter counts the rounds. -/
theorem Engine.round_runRounds (src : RcSource) (n : Nat) (e : Engine) :
    (Engine.runRounds src n e).round = e.round + n := by
  induction n generalizing e with
  | zero => rfl
  | succ n ih =>
    rw [Engine.runRounds, ih, Engine.stepRound]
    exact Nat.succ_add_eq_add_succ e.round n

/-- A cycle of `c` rounds after `k` such cycles is the cycle `k + 1`. -/
theorem Engine.runRounds_cycle (src : RcSource) (c k : Nat) (e : Engine) :
    Engine.runRounds src c (Engine.runRounds src (k * c) e) = Engine.runRounds src ((k + 1) * c) e := by
  rw [← Engine.runRounds_add, Nat.succ_mul, Nat.add_comm]

/-- An EXEC edge at which the pipeline moves: a command that does not permute ends, a permutation has one more cycle's
rounds or ends with the 24th. -/
theorem State.ClockInv.execEdge (h : s.ClockInv) (hp : s.phase = .exec) : s.execEdge.ClockInv := by
  obtain ⟨i, hd, hl⟩ := h.din_full hp
  have hs : s.Running i := h.running (.inr hp) hd
  unfold State.execEdge
  simp only [State.latched_eq hd]
  split
  next => exact State.endExec_clockInv (hs.noError.effectOf i) (by simp [effectOf_keeps, hs.busy])
  next a ha =>
    split
    next hround =>
      have hrun : State.Running i { s with
          engine := Engine.runRounds Config.build.rcSource Config.build.roundsPerCycle.count s.engine } :=
        ⟨hs.noError.congr rfl rfl rfl, hs.busy, hs.doutPend, hd, hs.passes⟩
      refine hrun.clockInv_of_exec hp hl fun a' ha' => ?_
      obtain ⟨k, e, -, he⟩ := h.rounds_done hp i a' hd (ha' ▸ permInput_congr rfl rfl i)
      have hnext := Engine.runRounds_cycle Config.build.rcSource Config.build.roundsPerCycle.count k
        (e.load Config.build.rcSource a')
      rw [← he] at hnext
      refine ⟨k + 1, e, ?_, hnext⟩
      rw [hnext, Engine.round_runRounds] at hround
      simpa [Engine.load] using hround
    next =>
      have hkeep := commitPermutation_keeps i
        (Engine.runRounds Config.build.rcSource Config.build.roundsPerCycle.count s.engine) s
      exact State.endExec_clockInv (by apply hs.noError.congr <;> simp [hkeep]) (by simp [hkeep, hs.busy])

/-- A dout transfer: the last byte ends the command, any other leaves bytes pending. -/
theorem State.ClockInv.doutTaken (h : s.ClockInv) (hp : s.phase = .dout) : s.doutTaken.ClockInv := by
  have he : s.NoError := h.noError (by simp [hp])
  unfold State.doutTaken
  split
  next => exact .of_idle rfl (he.congr rfl rfl rfl) rfl rfl rfl
  next ho => exact .of_dout hp (he.congr rfl rfl rfl) (h.busy_iff.mpr (.inr (.inr hp))) ho

/-- The block right after reset meets the invariant. -/
theorem State.reset_inv : State.reset.Inv := .of_idle rfl ⟨rfl, rfl, rfl⟩ rfl rfl rfl

/-- A reset edge: the free values are not among the registers the invariants speak of in phase IDLE. -/
theorem State.resetEdge_clockInv (s : State) : s.resetEdge.ClockInv :=
  .of_idle rfl ⟨rfl, rfl, rfl⟩ rfl rfl rfl

/-- Settles O54: the registers of R35 are those of an idle block without an error. -/
theorem resetMeetsTheInvariants : Obligations.ResetMeetsTheInvariants :=
  ⟨State.reset_inv, State.reset_inv.clockInv (.inl rfl), State.resetEdge_clockInv⟩

/-- Settles O56: an edge holds the state, or is the transfer or the EXEC edge of its phase, or a reset edge. -/
theorem clockKeepsItsInvariant : Obligations.ClockKeepsItsInvariant := by
  intro p advance s h
  unfold clock
  split
  next => exact s.resetEdge_clockInv
  next =>
    split
    next hp =>
      split
      next w _ => split <;> [exact h; exact h.toInv.acceptWord hp w]
      next => exact h
    next hp =>
      split
      next b _ => exact h.takeByte hp b
      next => exact h
    next hp => split <;> [exact h.execEdge hp; exact h]
    next hp => split <;> [exact h.doutTaken hp; exact h]
    next => exact h

end Sys2Proof.Machine
end

/-! # What the host cannot see (10_state.md R24, R33 to R35, 93_implementation_defined.md U4)

Two states that are the same to the host are one state with other contents in the places the host does not see. Every
operation of the block passes over those contents, and the only effects that read A are performed while INIT = 1. -/
section

namespace Sys2Proof.Machine

/-- The state with other lanes, other working registers and another count of the model's own drawings. -/
def State.withHidden (s : State) (a : Lanes) (e : Engine) (n : Nat) : State :=
  { s with lanes := a, engine := e, draws := n }

variable {w : Word} {i : Instr} {s t : State}

/-- Two states are the same to the host when they differ in hidden contents alone, and in A only while INIT = 0. -/
theorem State.sameToHost_iff :
    s.sameToHost t ↔ ∃ a e n, (s.init = true → s.lanes = a) ∧ t = s.withHidden a e n := by
  constructor
  · rintro ⟨hinit, herr, hcode, hcmd, hbusy, hphase, hword, hbuf, hpend, hcmds, hdin, hout, hlanes⟩
    refine ⟨t.lanes, t.engine, t.draws, hlanes, ?_⟩
    rw [State.withHidden, hinit, herr, hcode, hcmd, hbusy, hphase, hword, hbuf, hpend, hcmds, hdin, hout]
  · rintro ⟨a, e, n, hlanes, rfl⟩
    exact ⟨rfl, rfl, rfl, rfl, rfl, rfl, rfl, rfl, rfl, rfl, rfl, rfl, hlanes⟩

/-- An operation that passes over the hidden contents and leaves A and INIT keeps two states the same to the host. -/
theorem State.sameToHost.map (h : s.sameToHost t) (f : State → State)
    (hf : ∀ a e n, f (s.withHidden a e n) = (f s).withHidden a e n) (hi : (f s).init = s.init)
    (hl : (f s).lanes = s.lanes) : (f s).sameToHost (f t) := by
  obtain ⟨a, e, n, hlanes, rfl⟩ := State.sameToHost_iff.mp h
  exact State.sameToHost_iff.mpr ⟨a, e, n, by rwa [hi, hl], hf a e n⟩

/-- What a step goes by is seen by the host: the halt, INIT, the phase, the latched word and what the host offers. -/
theorem State.sameToHost.seen (h : s.sameToHost t) :
    s.halted = t.halted ∧ s.init = t.init ∧ s.phase = t.phase ∧ s.cmdWord = t.cmdWord ∧ s.cmdIn = t.cmdIn ∧
      s.dinIn = t.dinIn := by
  obtain ⟨a, e, n, -, rfl⟩ := State.sameToHost_iff.mp h
  exact ⟨rfl, rfl, rfl, rfl, rfl, rfl⟩

/-- The working registers, and the drawings, have no part in an effect but in the working registers it leaves. -/
theorem effectOf_withHidden (i : Instr) (s : State) (e : Engine) (n : Nat) :
    effectOf i (s.withHidden s.lanes e n) =
      (effectOf i s).withHidden (effectOf i s).lanes (effectOf i (s.withHidden s.lanes e n)).engine n := by
  cases i <;> rfl

/-- A command that passes its check while INIT = 0 does not need INIT. -/
theorem needsInit_of_check {init : Bool} (hc : check i init = .none) (hi : init = false) : needsInit i = false := by
  subst hi
  unfold check at hc
  split at hc
  next => simpa using hc
  next hr => exact absurd hc hr

/-- The effect of a command that passed its check: with INIT = 1 the lanes it reads are the same; with INIT = 0 it is one of
the commands that do not read them. -/
theorem State.sameToHost.effectOf (h : s.sameToHost t) (hc : check i s.init = .none) :
    (effectOf i s).sameToHost (effectOf i t) := by
  cases hi : s.init
  case true =>
    obtain ⟨a, e, n, hlanes, rfl⟩ := State.sameToHost_iff.mp h
    obtain rfl := hlanes hi
    exact State.sameToHost_iff.mpr ⟨_, _, n, fun _ => rfl, effectOf_withHidden i s e n⟩
  case false =>
    have hneeds : needsInit i = false := needsInit_of_check hc hi
    cases i with
    | cinit => exact h
    | sinit =>
      obtain ⟨a, e, n, -, rfl⟩ := State.sameToHost_iff.mp h
      exact State.sameToHost_iff.mpr ⟨zeroLanes, e, n, fun _ => rfl, rfl⟩
    | rdrc r => exact h.map (rdrcEffect r) (fun _ _ _ => rfl) rfl rfl
    | rdrho k => exact h.map (rdrhoEffect k) (fun _ _ _ => rfl) rfl rfl
    | xorb | xorl | cbit | perm | extb | extl | xpe => cases hneeds

/-- Two steps of the same kind: next states the same to the host, or the same fault. -/
inductive SameOutcome : Host.Outcome State Fault Refusal → Host.Outcome State Fault Refusal → Prop
  | next {s t : State} (h : s.sameToHost t) : SameOutcome (.next s) (.next t)
  | fault (f : Fault) : SameOutcome (.fault f) (.fault f)

/-- A word run in two states that are the same to the host: the check, the halt and the DIN bytes agree, so the two runs
take the same branch. -/
theorem State.sameToHost.runWord (h : s.sameToHost t) (w : Word) : SameOutcome (runWord w s) (runWord w t) := by
  obtain ⟨hhalted, hinit, -, -, -, hdin⟩ := h.seen
  cases hh : s.halted
  case true =>
    rw [runWord_halted hh, runWord_halted (hhalted ▸ hh)]
    exact .fault .halted
  have hh' := hhalted ▸ hh
  by_cases hc : checkWord w s.init = .none
  · obtain ⟨i, hd, hi⟩ := checkWord_eq_none_iff.mp hc
    rcases Nat.lt_or_ge s.dinIn.length (nin i) with hn | hn
    · rw [runWord_waits hh hd hi hn, runWord_waits hh' hd (hinit ▸ hi) (hdin ▸ hn)]
      exact .next (h.map (State.awaitDin · w) (fun _ _ _ => rfl) rfl rfl)
    · rw [runWord_done hh hd hi hn, runWord_done hh' hd (hinit ▸ hi) (hdin ▸ hn)]
      have hbegin := h.map (State.begin · w (nin i)) (fun _ _ _ => rfl) rfl rfl
      exact .next ((hbegin.effectOf hi).map State.drain (fun _ _ _ => rfl) rfl rfl)
  · rw [runWord_rejected hh hc, runWord_rejected hh' (hinit ▸ hc), ← hinit]
    exact .next (h.map (State.raiseError · (checkWord w s.init) w) (fun _ _ _ => rfl) rfl rfl)

/-- An idle block takes the same word, or holds, in two states that are the same to the host. -/
theorem State.sameToHost.acceptNext (h : s.sameToHost t) : SameOutcome (acceptNext s) (acceptNext t) := by
  obtain ⟨-, -, -, -, hcmds, -⟩ := h.seen
  unfold Machine.acceptNext
  rw [← hcmds]
  split
  next => exact .next h
  next w ws _ =>
    exact (h.map (fun u => { u with cmdIn := ws }) (fun _ _ _ => rfl) rfl rfl).runWord w

/-- A step goes by ERR and the phase, which the host sees. -/
theorem State.sameToHost.step (h : s.sameToHost t) : SameOutcome (step s) (step t) := by
  obtain ⟨hhalted, -, hphase, hword, -, -⟩ := h.seen
  have hrewind := h.map State.rewind (fun _ _ _ => rfl) rfl rfl
  unfold Machine.step stepByPhase
  rw [← hhalted, ← hphase, ← hword]
  split
  next => exact .fault .halted
  next =>
    split
    next => exact h.acceptNext
    next => exact hrewind.runWord s.cmdWord
    next => exact hrewind.runWord s.cmdWord
    next => exact .next (h.map State.drain (fun _ _ _ => rfl) rfl rfl)
    next => exact .fault .halted

/-- Settles O59: the two steps have the same outcome, which is never a refusal. -/
theorem uninitialisedStateIsNeverSeen : Obligations.UninitialisedStateIsNeverSeen := by
  intro s t h
  have hsame := h.step
  generalize step s = o, step t = o' at hsame
  cases hsame with
  | next h' =>
    refine ⟨fun s' hs => ?_, nofun, nofun⟩
    cases hs
    exact ⟨_, rfl, h'⟩
  | fault f => exact ⟨nofun, fun f' hf => hf, nofun⟩

end Sys2Proof.Machine
end

/-! # INIT and the error registers (10_state.md R24 to R27, 60_exceptions.md R213) -/
section

namespace Sys2Proof.Machine

variable {i : Instr} {s t : State}

/-! ### INIT -/

/-- SINIT has no check to fail (R212). -/
theorem check_sinit (init : Bool) : check .sinit init = .none := by cases init <;> rfl

/-- Of all commands only SINIT writes INIT. -/
theorem effectOf_init (hi : i ≠ .sinit) (s : State) : (effectOf i s).init = s.init := by
  cases i with
  | sinit => exact absurd rfl hi
  | cinit | rdrc | rdrho => simp [effectOf, cinitEffect, rdrcEffect, rdrhoEffect]
  | xorb | xorl | cbit => simp [effectOf, xorbEffect, xorlEffect, cbitEffect]
  | extb | extl => simp [effectOf, extbEffect, extlEffect]
  | perm | xpe => simp [effectOf, permEffect, xpeEffect]

/-- A command other than SINIT leaves INIT, whatever next state it answers. -/
theorem exec_keeps_init (hi : i ≠ .sinit) (h : exec i s = .next t) : t.init = s.init := by
  rw [exec_eq_perform] at h
  obtain ⟨-, ⟨-, -, rfl⟩ | ⟨-, -, rfl⟩ | ⟨-, rfl⟩⟩ := perform_cases h
  · simp [effectOf_init hi]
  · simp
  · simp

/-- While INIT = 0 a command that needs it fails with NOT_INIT, once its ranges are right (R212, R215). -/
theorem check_eq_notInit (hn : needsInit i = true) (hr : rangeCheck i = .none) : check i false = .notInit := by
  simp [check, hn, hr]

/-- A cmd transfer leaves INIT, whether the word is accepted or rejected. -/
@[simp] theorem State.acceptWord_init (s : State) (w : Word) : (s.acceptWord w).init = s.init := by
  unfold State.acceptWord
  split
  · dsimp only
    split
    · split <;> rfl
    · rfl
  · rfl

/-- A din transfer leaves INIT. -/
@[simp] theorem State.takeByte_init (s : State) (b : Byte) : (s.takeByte b).init = s.init := by
  unfold State.takeByte
  dsimp only
  split
  · split <;> rfl
  · rfl

/-- A dout transfer leaves INIT. -/
@[simp] theorem State.doutTaken_init (s : State) : s.doutTaken.init = s.init := by
  unfold State.doutTaken
  split <;> rfl

/-- The end of EXEC leaves INIT. -/
@[simp] theorem State.endExec_init (s : State) : s.endExec.init = s.init := by
  unfold State.endExec
  split <;> rfl

/-- An EXEC edge of any latched command but SINIT leaves INIT. -/
theorem State.execEdge_init (hl : s.latched ≠ some .sinit) : s.execEdge.init = s.init := by
  unfold State.execEdge
  split
  next => rfl
  next i hi =>
    have hne : i ≠ .sinit := fun h => hl (h ▸ hi)
    split
    next => simp [effectOf_init hne]
    next =>
      dsimp only
      split
      next => rfl
      next => simp [commitPermutation_keeps]

/-- A clock edge without reset leaves INIT, but for the EXEC edge of SINIT. -/
theorem clock_keeps_init {p : PortsIn} (hp : p.rst = false) (advance : Bool)
    (hs : ¬(s.latched = some .sinit ∧ s.phase = .exec)) : (clock p advance s).init = s.init := by
  unfold clock
  rw [if_neg (by simp [hp])]
  split
  next =>
    split
    next w _ => split <;> [rfl; exact s.acceptWord_init w]
    next => rfl
  next =>
    split
    next b _ => exact s.takeByte_init b
    next => rfl
  next hx =>
    split
    · exact State.execEdge_init fun hl => hs ⟨hl, hx⟩
    · rfl
  next => split <;> [exact s.doutTaken_init; rfl]
  next => rfl

/-- The commands that need INIT are those that read or write A. -/
theorem needsInit_iff (i : Instr) : needsInit i = true ↔
    i = .perm ∨ (∃ l o n, i = .xorb l o n ∨ i = .extb l o n) ∨ (∃ n, i = .xorl n ∨ i = .extl n ∨ i = .cbit n) ∨
      ∃ n m, i = .xpe n m := by
  cases i <;> simp [needsInit]

/-- Settles O12: the effects, the check and the clock's edges, each by its own lemma about INIT. -/
theorem initIsSetBySinitAlone : Obligations.InitIsSetBySinitAlone := by
  refine ⟨fun s hh => ?_, fun i s t hi h => exec_keeps_init hi h, fun p advance s => ⟨fun hp => ?_, fun hp hne => ?_⟩,
    fun i s hh hi hn hr => ?_, needsInit_iff⟩
  · exact ⟨_, perform_done hh (check_sinit _) (Nat.zero_le _), rfl⟩
  · rw [clock, if_pos hp]; rfl
  · exact Classical.not_not.mp fun h => hne (clock_keeps_init hp advance h)
  · have hc : check i s.init = .notInit := hi ▸ check_eq_notInit hn hr
    have hne : check i s.init ≠ .none := by simp [hc]
    exact ⟨_, (exec_eq_perform i s).trans (perform_rejected hh hne), rfl, hc, rfl⟩

/-! ### The error registers -/

/-- Settles O34: a command is performed, waits or is rejected, and only the rejection writes the error registers. -/
theorem onlyTheErrorEntryWritesTheErrorRegisters : Obligations.OnlyTheErrorEntryWritesTheErrorRegisters := by
  intro i s t h
  rw [exec_eq_perform] at h
  obtain ⟨-, ⟨-, -, rfl⟩ | ⟨-, -, rfl⟩ | ⟨hc, rfl⟩⟩ := perform_cases h
  · exact .inl (by simp [effectOf_keeps])
  · exact .inl (by simp)
  · exact .inr ⟨hc, by simp⟩

/-! ### The status word (R29) -/

/-- The bits of the status word: the flags, bit 3, and from bit 4 up the error code, which has no bit above its four. -/
theorem State.getLsbD_statusWord (s : State) (j : Nat) : s.statusWord.getLsbD j =
    match j with
    | 0 => s.busy
    | 1 => s.init
    | 2 => s.err
    | 3 => false
    | k + 4 => s.errCode.bits.getLsbD k := by
  change (0#24 ++ s.errCode.bits ++ 0#1 ++ BitVec.ofBool s.err ++ BitVec.ofBool s.init ++
    BitVec.ofBool s.busy : BitVec (24 + 4 + 1 + 1 + 1 + 1)).getLsbD j = _
  simp only [BitVec.getLsbD_append]
  match j with
  | 0 | 1 | 2 | 3 => simp
  | k + 4 => simpa using BitVec.lt_of_getLsbD (x := s.errCode.bits) (i := k)

/-- Settles O35: each bit and field is read off the part of the word it lies in. -/
theorem statusWordLayout : Obligations.StatusWordLayout := by
  intro s
  have hcode : field s.statusWord 4 4 = s.errCode.bits.toNat := field_eq_of_bits (BitVec.isLt _) fun j _ => by
    rw [Nat.add_comm, s.getLsbD_statusWord, BitVec.testBit_toNat]
  have hreserved : field s.statusWord 8 24 = 0 := field_eq_of_bits (by decide) fun j _ => by
    rw [Nat.add_comm, s.getLsbD_statusWord, Nat.zero_testBit]
    exact BitVec.getLsbD_of_ge _ _ (Nat.le_add_left 4 j)
  exact ⟨s.getLsbD_statusWord 0, s.getLsbD_statusWord 1, s.getLsbD_statusWord 2, s.getLsbD_statusWord 3, hcode, hreserved,
    rfl, rfl⟩

end Sys2Proof.Machine
end

/-! # The raw form of the lanes (10_state.md R32, R33, 43_interleave.md R170, R171, R175, 44_complement.md R191) -/
section

namespace Sys2Proof.Machine

/-- De-interleaving undoes interleaving: bit `j` of a lane is bit `j / 2` of the half of its parity (R171). -/
theorem dilv_ilv (l : Lane) : dilv (ilv l) = l := by
  refine BitVec.eq_of_getLsbD_eq fun j hj => ?_
  have hhalf : j / 2 < 32 := by omega
  rw [dilv, getLsbD_ofBits]
  split
  next heven => simp [ilv, ilvEven, hj, hhalf, Nat.mul_div_cancel' (Nat.dvd_of_mod_eq_zero heven)]
  next hodd => simp [ilv, ilvOdd, hj, hhalf, show 2 * (j / 2) + 1 = j by omega]

/-- The even half of a lane (R170). -/
theorem getElem_halvesOf_even (a : Lanes) {i : Nat} (hi : i < 25) : (halvesOf a).even[i] = ilvEven a[i] := by
  simp [halvesOf]

/-- The odd half of a lane (R170). -/
theorem getElem_halvesOf_odd (a : Lanes) {i : Nat} (hi : i < 25) : (halvesOf a).odd[i] = ilvOdd a[i] := by
  simp [halvesOf]

/-- `H[2i]` is the even half of lane i (R175). -/
theorem joinHalves_even (h : Halves) {i : Nat} (hi : i < 25) : (joinHalves h)[2 * i] = h.even[i] := by
  simp [joinHalves]

/-- `H[2i+1]` is the odd half of lane i (R175). -/
theorem joinHalves_odd (h : Halves) {i : Nat} (hi : i < 25) : (joinHalves h)[2 * i + 1] = h.odd[i] := by
  have hdiv : (2 * i + 1) / 2 = i := by omega
  simp [joinHalves, hdiv]

/-- Splitting undoes joining. -/
theorem splitHalves_joinHalves (h : Halves) : splitHalves (joinHalves h) = h := by
  cases h
  simp only [splitHalves, Halves.mk.injEq]
  constructor <;> ext i hi : 1
  · simpa using joinHalves_even _ hi
  · simpa using joinHalves_odd _ hi

/-- The lane a raw array stores is that of its two halves (R171). -/
theorem getElem_load_halves (h : HalfArray) {i : Nat} (hi : i < 25) :
    (RawLanes.halves h).load[i] = dilv ((splitHalves h).even[i], (splitHalves h).odd[i]) := by
  rw [RawLanes.load, Vector.getElem_ofFn]
  rfl

/-- The lanes read back from storage are those stored, in either form. -/
theorem load_store (interleave : Bool) (a : Lanes) : (store interleave a).load = a := by
  cases interleave
  case false => rfl
  case true =>
    ext i hi : 1
    rw [store, if_pos rfl, getElem_load_halves, splitHalves_joinHalves, getElem_halvesOf_even, getElem_halvesOf_odd]
    exact dilv_ilv a[i]

/-- The mask XORed in twice is gone. -/
theorem xorMask_xorMask (complement : Bool) (a : Lanes) : xorMask complement (xorMask complement a) = a := by
  ext i hi : 1
  simp

/-- `Dec` undoes `Enc` (R33). -/
theorem dec_enc (p : BuildParams) (a : Lanes) : dec p (enc p a) = a := by
  rw [dec, enc, load_store, xorMask_xorMask]

/-- Settles O48: the inverse by its two parts, and the form of the array by what joining the halves puts where. -/
theorem decodingTheRawFormGivesTheLanes : Obligations.DecodingTheRawFormGivesTheLanes := by
  intro p a
  refine ⟨dec_enc p a, fun hp => ⟨xorMask p.complement a, ?_, fun i => ?_⟩,
    fun hp => ⟨joinHalves (halvesOf (xorMask p.complement a)), ?_, fun i hi => ⟨?_, ?_⟩⟩⟩
  · simp [enc, store, hp]
  · simp
  · simp [enc, store, hp]
  · rw [joinHalves_even _ hi, getElem_halvesOf_even, getElem_xorMask]
  · rw [joinHalves_odd _ hi, getElem_halvesOf_odd, getElem_xorMask]

end Sys2Proof.Machine
end

/-! # The step of a block by its phase (20_memory.md R60, 30_encoding.md R71, R72) -/
section

namespace Sys2Proof.Machine

variable {w : Word} {ws : List Word} {i : Instr} {s : State}

/-- Without an error recorded, a block outside HALT is not halted. -/
theorem State.halted_eq_false (he : s.err = false) (hp : s.phase ≠ .halt) : s.halted = false := by
  simp [State.halted, he, hp]

/-- An idle block runs the word the host offers next (R60, R72). -/
theorem step_of_idle_cons (hh : s.halted = false) (hp : s.phase = .idle) (hq : s.cmdIn = w :: ws) :
    step s = runWord w { s with cmdIn := ws } := by
  simp [step, stepByPhase, acceptNext, hh, hp, hq]

/-- An idle block that is offered no word holds its state (R71, R225). -/
theorem step_of_idle_nil (hh : s.halted = false) (hp : s.phase = .idle) (hq : s.cmdIn = []) : step s = .next s := by
  simp [step, stepByPhase, acceptNext, hh, hp, hq]

/-- A command that waits for DIN bytes or is in phase EXEC is run from its start (R72). -/
theorem step_of_running (hh : s.halted = false) (hp : s.phase = .din ∨ s.phase = .exec) :
    step s = runWord s.cmdWord s.rewind := by
  rcases hp with hp | hp <;> simp [step, stepByPhase, hh, hp]

/-- In phase DOUT the pending bytes are taken (R72). -/
theorem step_of_dout (hh : s.halted = false) (hp : s.phase = .dout) : step s = .next s.drain := by
  simp [step, stepByPhase, hh, hp]

/-- A word that decodes is run as its command. -/
theorem runWord_of_decode (hd : decode w = .ok i) (s : State) : runWord w s = exec i s := by
  simp only [runWord, hd]

/-- A word that does not decode is rejected with its decoding error (R82). -/
theorem runWord_of_decode_error {e : DecodeError} (hh : s.halted = false) (hd : decode w = .error e) :
    runWord w s = .next (s.raiseError (decodeErrorCode e) w) := by
  simp [runWord, hd, hh]

/-- Settles O10: a step of an idle block by the word offered, and a word by its decoding. -/
theorem stepRunsTheDecodedCommand : Obligations.StepRunsTheDecodedCommand := by
  refine ⟨fun s w ws hh hp hq => ⟨fun i hd => ?_, fun e hd => ?_⟩, fun s => step_of_idle_nil⟩
  · rw [step_of_idle_cons hh hp hq, runWord_of_decode hd]
  · have hh' : State.halted { s with cmdIn := ws } = false := hh
    rw [step_of_idle_cons hh hp hq, runWord_of_decode_error hh' hd]

end Sys2Proof.Machine
end

/-! # The commands that write no lane (20_memory.md R58, 42_state_access.md R148) -/
section

namespace Sys2Proof.Machine

variable {i : Instr}

/-- CINIT, EXTB, EXTL, RDRC and RDRHO take no DIN byte (R84), and their whole effect is the DOUT bytes they write. -/
theorem effectOf_eq_doutWrite
    (hi : i = .cinit ∨ (∃ l o n, i = .extb l o n) ∨ ∃ n, i = .extl n ∨ i = .rdrc n ∨ i = .rdrho n) (s : State) :
    nin i = 0 ∧ ∃ bytes, effectOf i s = s.doutWrite bytes := by
  rcases hi with rfl | ⟨l, o, n, rfl⟩ | ⟨n, rfl | rfl | rfl⟩
  · exact ⟨rfl, [], by simp [effectOf, cinitEffect, State.doutWrite]⟩
  all_goals exact ⟨rfl, _, rfl⟩

/-- Settles O31: the command is performed and writes DOUT bytes alone, or waits, or is rejected; none of these touches a
lane, INIT or the working registers, and no DIN byte is asked for. -/
theorem frameOfCommandsThatWriteNoLane : Obligations.FrameOfCommandsThatWriteNoLane := by
  intro i s t hi h
  obtain ⟨hnin, bytes, heffect⟩ := effectOf_eq_doutWrite hi (s.begin (encode i) (nin i))
  rw [exec_eq_perform] at h
  obtain ⟨-, ⟨-, -, rfl⟩ | ⟨-, hn, -⟩ | ⟨-, rfl⟩⟩ := perform_cases h
  · rw [heffect]
    simp [hnin]
  · simp [hnin] at hn
  · simp

end Sys2Proof.Machine
end

/-! # The engine over a whole permutation (40_constants.md R103, 41_permutation.md R126, R127)

Loaded with lanes and run for 24 rounds, the engine holds Keccak-f of them, from whatever an unfinished permutation left. -/
section

namespace Sys2Proof.Machine

variable {src : RcSource} {a : Lanes}

/-- The ROM holds the constants the LFSR derives (R101, R102). -/
theorem rc_eq_rcDerived : ∀ r < 24, rc r = rcDerived r := by decide

/-- With the table as the source, the engine leaves the LFSR register alone (R103). -/
theorem Engine.lfsr_runRounds_rom (n : Nat) (e : Engine) : (Engine.runRounds .rom n e).lfsr = e.lfsr := by
  induction n generalizing e with
  | zero => rfl
  | succ n ih => rw [Engine.runRounds, ih]; rfl

/-- With the LFSR as the source, its register runs from the seed through the rounds (R103). -/
theorem Engine.lfsr_runRounds_lfsr (n : Nat) (a : Lanes) (e : Engine) :
    (Engine.runRounds .lfsr n (e.load .lfsr a)).lfsr = lfsrAt n := by
  induction n with
  | zero => rfl
  | succ n ih =>
    rw [Engine.runRounds_succ, lfsrAt, ← ih]
    rfl

/-- The round counter of a loaded engine. -/
theorem Engine.round_runRounds_load (src : RcSource) (n : Nat) (a : Lanes) (e : Engine) :
    (Engine.runRounds src n (e.load src a)).round = n := by
  rw [Engine.round_runRounds]
  exact Nat.zero_add n

/-- Either source gives RC[r] in round r (R103). -/
theorem Engine.roundConstant_runRounds (src : RcSource) (a : Lanes) (e : Engine) {r : Nat} (hr : r < 24) :
    (Engine.roundConstant src (Engine.runRounds src r (e.load src a))).1 = rc r := by
  cases src with
  | rom => rw [Engine.roundConstant, Engine.round_runRounds_load]
  | lfsr => rw [Engine.roundConstant, Engine.lfsr_runRounds_lfsr, rc_eq_rcDerived r hr, rcDerived]

/-- After `n` rounds the staged lanes are those of the first `n` rounds of Keccak-f (R126). -/
theorem Engine.stage_runRounds (src : RcSource) (a : Lanes) (e : Engine) {n : Nat} (hn : n ≤ 24) :
    (Engine.runRounds src n (e.load src a)).stage = keccakRounds a n := by
  induction n with
  | zero => rfl
  | succ n ih =>
    rw [Engine.runRounds_succ, Engine.stepRound, Engine.roundConstant_runRounds src a e hn, ih (Nat.le_of_lt hn)]
    rfl

/-- The engine computes Keccak-f of the lanes it was loaded with (R126, R127). -/
theorem Engine.stage_runRounds_whole (src : RcSource) (a : Lanes) (e : Engine) :
    (Engine.runRounds src 24 (e.load src a)).stage = keccakF a := by
  rw [Engine.stage_runRounds src a e (Nat.le_refl 24), keccakF]

/-- Of what the engine held before it was loaded, the first round leaves the LFSR register at most, and that only with the
table as the source. -/
theorem Engine.runRounds_load_congr {e f : Engine} (h : src = .rom → e.lfsr = f.lfsr) (n : Nat) (a : Lanes) :
    Engine.runRounds src (n + 1) (e.load src a) = Engine.runRounds src (n + 1) (f.load src a) := by
  have hstep : (e.load src a).stepRound src = (f.load src a).stepRound src := by
    cases src with
    | rom => simp [Engine.stepRound, Engine.load, Engine.roundConstant, h rfl]
    | lfsr => rfl
  rw [Engine.runRounds, Engine.runRounds, hstep]

/-- A whole permutation does not depend on an unfinished one the engine held. -/
theorem Engine.runRounds_reload (src : RcSource) (n : Nat) (a b : Lanes) (e : Engine) :
    Engine.runRounds src 24 ((Engine.runRounds src n (e.load src b)).load src a) =
      Engine.runRounds src 24 (e.load src a) := by
  refine Engine.runRounds_load_congr (fun hsrc => ?_) 23 a
  subst hsrc
  exact Engine.lfsr_runRounds_rom n _

/-- Cycles of a number of rounds that divides 24 reach 24 exactly. -/
theorem cycles_end {c k : Nat} (hc : c ∣ 24) (hk : k * c < 24) (hend : 24 ≤ (k + 1) * c) : (k + 1) * c = 24 := by
  obtain ⟨q, hq⟩ := hc
  have hkq : k < q := by
    rw [hq, Nat.mul_comm c q] at hk
    exact Nat.lt_of_mul_lt_mul_right hk
  have hle : (k + 1) * c ≤ q * c := Nat.mul_le_mul_right c hkq
  have hcomm : c * q = q * c := Nat.mul_comm c q
  omega

/-- A permutation leaves the staged lanes of the whole of its rounds in A, and the engine stopped (R126, R127). -/
theorem permuteFrom_eq {f : Engine} {s : State}
    (hf : Engine.runRounds Config.build.rcSource 24 (s.engine.load Config.build.rcSource a) = f) :
    permuteFrom a s = { s with lanes := f.stage, engine := f.stop } := by
  rw [permuteFrom, Engine.permute, ← Engine.stage_runRounds_whole Config.build.rcSource a s.engine, hf]

/-- The effect of a command that permutes is the last edge of its permutation (R126, R146). -/
theorem effectOf_of_permInput {i : Instr} {f : Engine} {s : State} (h : permInput s i = some a)
    (hf : Engine.runRounds Config.build.rcSource 24 (s.engine.load Config.build.rcSource a) = f) :
    effectOf i s = s.commitPermutation i f := by
  cases i with
  | perm =>
    obtain rfl : s.lanes = a := Option.some.inj h
    rw [effectOf, permEffect, permuteFrom_eq hf]
    rfl
  | xpe n m =>
    obtain rfl : xorLanes s.lanes n s.dinBuf = a := Option.some.inj h
    rw [effectOf, xpeEffect, permuteFrom_eq hf]
    rfl
  | cinit | sinit | xorb | xorl | cbit | extb | extl | rdrc | rdrho => cases h

end Sys2Proof.Machine
end

/-! # The clocked block and the atomic step (20_memory.md R60, 30_encoding.md R72)

A clocked state stands for what its command comes to. In phase DIN or EXEC that is what the latched word answers when it is
run from the command's start (`State.rewind`), so it is enough that no edge changes what the start of the command gives. -/
section

namespace Sys2Proof.Machine

variable {w : Word} {ws : List Word} {b : Byte} {bs : List Byte} {i : Instr} {m : Move} {s t : State}

/-! ### A cycle is an edge of the block with the host's ends of the channels moved on

No edge but reset looks at the host's ends, so what was transferred can leave its queue before the edge. -/

/-- A cmd transfer passes over the host's ends of the channels. -/
theorem State.acceptWord_host (s : State) (w : Word) (c : List Word) (d o : List Byte) :
    State.acceptWord { s with cmdIn := c, dinIn := d, doutOut := o } w =
      { s.acceptWord w with cmdIn := c, dinIn := d, doutOut := o } := by
  unfold State.acceptWord
  dsimp only [State.latched]
  split
  next =>
    split
    next => split <;> rfl
    next => rfl
  next => rfl

/-- A din transfer passes over the host's ends of the channels. -/
theorem State.takeByte_host (s : State) (b : Byte) (c : List Word) (d o : List Byte) :
    State.takeByte { s with cmdIn := c, dinIn := d, doutOut := o } b =
      { s.takeByte b with cmdIn := c, dinIn := d, doutOut := o } := by
  unfold State.takeByte
  dsimp only [State.latched]
  split
  next => split <;> rfl
  next => rfl

/-- The end of EXEC passes over the host's ends of the channels. -/
theorem State.endExec_host (s : State) (c : List Word) (d o : List Byte) :
    State.endExec { s with cmdIn := c, dinIn := d, doutOut := o } =
      { s.endExec with cmdIn := c, dinIn := d, doutOut := o } := by
  unfold State.endExec
  split <;> rfl

/-- A permutation's last edge passes over the host's ends of the channels. -/
theorem State.commitPermutation_host (s : State) (i : Instr) (e : Engine) (c : List Word) (d o : List Byte) :
    State.commitPermutation { s with cmdIn := c, dinIn := d, doutOut := o } i e =
      { s.commitPermutation i e with cmdIn := c, dinIn := d, doutOut := o } := by
  cases i <;> rfl

/-- An EXEC edge passes over the host's ends of the channels. -/
theorem State.execEdge_host (s : State) (c : List Word) (d o : List Byte) :
    State.execEdge { s with cmdIn := c, dinIn := d, doutOut := o } =
      { s.execEdge with cmdIn := c, dinIn := d, doutOut := o } := by
  have hperm (i : Instr) : permInput { s with cmdIn := c, dinIn := d, doutOut := o } i = permInput s i :=
    permInput_congr rfl rfl i
  unfold State.execEdge
  dsimp only [State.latched]
  split
  next => rfl
  next i _ =>
    rw [hperm i]
    split
    next => rw [effectOf_host, State.endExec_host]
    next =>
      split
      next => rfl
      next => rw [State.commitPermutation_host, State.endExec_host]

/-- Writing the phase a state is in leaves the state. -/
theorem State.with_phase_self {p : Phase} (hp : s.phase = p) : { s with phase := p } = s := by rw [← hp]

/-- A cycle with a cmd transfer. -/
theorem tick_of_accept (hp : s.phase = .idle) (he : s.err = false) (hm : m.cmd = true) (hq : s.cmdIn = w :: ws) :
    tick m s = State.acceptWord { s with cmdIn := ws } w := by
  refine Eq.trans ?_ (s.acceptWord_host w ws s.dinIn s.doutOut).symm
  simp [tick, Move.settle, Move.ports, clock, State.ports, hp, he, hm, hq]

/-- A cycle of an idle block without a cmd transfer. -/
theorem tick_of_idle (hp : s.phase = .idle) (hm : m.cmd = false ∨ s.cmdIn = []) : tick m s = s := by
  rcases hm with hm | hm <;>
    simpa [tick, Move.settle, Move.ports, clock, State.ports, hp, hm] using State.with_phase_self hp

/-- A cycle with a din transfer. -/
theorem tick_of_take (hp : s.phase = .din) (hm : m.din = true) (hq : s.dinIn = b :: bs) :
    tick m s = State.takeByte { s with dinIn := bs } b := by
  refine Eq.trans ?_ (s.takeByte_host b s.cmdIn bs s.doutOut).symm
  simp [tick, Move.settle, Move.ports, clock, State.ports, hp, hm, hq]

/-- A cycle of phase DIN without a din transfer. -/
theorem tick_of_wait (hp : s.phase = .din) (hm : m.din = false ∨ s.dinIn = []) : tick m s = s := by
  rcases hm with hm | hm <;>
    simpa [tick, Move.settle, Move.ports, clock, State.ports, hp, hm] using State.with_phase_self hp

/-- A cycle of phase EXEC, with the pipeline moving or not. -/
theorem tick_of_exec (hp : s.phase = .exec) : tick m s = if m.advance then s.execEdge else s := by
  split
  next hm =>
    refine Eq.trans ?_ (s.execEdge_host s.cmdIn s.dinIn s.doutOut).symm
    simp [tick, Move.settle, Move.ports, clock, State.ports, hp, hm]
  next hm => simpa [tick, Move.settle, Move.ports, clock, State.ports, hp, hm] using State.with_phase_self hp

/-- A cycle with a dout transfer. -/
theorem tick_of_give (hp : s.phase = .dout) (hm : m.dout = true) (hq : s.doutPend = b :: bs) :
    tick m s = State.doutTaken { s with doutOut := s.doutOut ++ [b] } := by
  simp only [tick, Move.settle, Move.ports, clock, State.ports, State.doutTaken, hp, hm, hq]
  cases bs <;> simp [State.retire]

/-- A cycle of phase DOUT without a dout transfer. -/
theorem tick_of_keep (hp : s.phase = .dout) (hm : m.dout = false) : tick m s = s := by
  simpa [tick, Move.settle, Move.ports, clock, State.ports, hp, hm] using State.with_phase_self hp

/-- A cycle of a halted block. -/
theorem tick_of_halt (hp : s.phase = .halt) : tick m s = s := by
  simpa [tick, Move.settle, Move.ports, clock, State.ports, hp] using State.with_phase_self hp

/-! ### What a clocked state stands for, phase by phase -/

/-- A state with no command in progress stands for itself. -/
theorem State.settled_of_rest (hp : s.phase = .idle ∨ s.phase = .halt) : s.settled = s := by
  rcases hp with hp | hp <;> simp [State.settled, hp]

/-- A state with a command in progress stands for the next state of its step. -/
theorem State.settled_of_step (hp : s.phase = .din ∨ s.phase = .exec ∨ s.phase = .dout) (hs : step s = .next t) :
    s.settled = t := by
  rcases hp with hp | hp | hp <;> simp [State.settled, hp, hs]

/-- A state in phase DOUT stands for the one with all its DOUT bytes taken. -/
theorem State.settled_of_dout (he : s.err = false) (hp : s.phase = .dout) : s.settled = s.drain :=
  State.settled_of_step (.inr (.inr hp)) (step_of_dout (State.halted_eq_false he (by simp [hp])) hp)

/-- A command in progress, seen as not yet performed, is in a block that is not halted. -/
theorem State.Running.halted_rewind (h : s.Running i) : s.rewind.halted = false :=
  State.halted_eq_false h.noError.err (by simp)

/-- In phase DIN or EXEC a state stands for what its command comes to, run from its start. -/
theorem State.Running.runWord_rewind (h : s.Running i) (hp : s.phase = .din ∨ s.phase = .exec) :
    runWord s.cmdWord s.rewind = .next s.settled := by
  have hh : s.halted = false := State.halted_eq_false h.noError.err (by rcases hp with hp | hp <;> simp [hp])
  obtain ⟨t, hr⟩ : ∃ t, runWord s.cmdWord s.rewind = .next t := by
    rcases Nat.lt_or_ge s.rewind.dinIn.length (nin i) with hn | hn
    · exact ⟨_, runWord_waits h.halted_rewind h.decodes h.passes hn⟩
    · exact ⟨_, runWord_done h.halted_rewind h.decodes h.passes hn⟩
  rw [hr, State.settled_of_step (hp.imp_right .inl) ((step_of_running hh hp).trans hr)]

/-- The phase in which an effect is performed does not show once the command has finished. -/
theorem effectOf_drain_phase (i : Instr) (s : State) (p : Phase) :
    (effectOf i { s with phase := p }).drain = (effectOf i s).drain := by cases i <;> rfl

/-- A command that has taken all its DIN bytes, run from its start, takes them again and is performed. -/
theorem State.Running.runWord_rewind_of_full (h : s.Running i) (hl : s.dinBuf.length = nin i) :
    runWord s.cmdWord s.rewind = .next (effectOf i s).drain := by
  have hbegin : s.rewind.begin s.cmdWord (nin i) = { s with phase := .exec } := by
    simp [State.rewind, State.begin, ← hl, ← h.busy, ← h.doutPend]
  have hn : nin i ≤ s.rewind.dinIn.length := by simp [hl]
  rw [runWord_done h.halted_rewind h.decodes h.passes hn, hbegin, effectOf_drain_phase]

/-- A state in phase EXEC stands for the one with the effect performed and the DOUT bytes taken. -/
theorem State.Running.settled_of_exec (h : s.Running i) (hp : s.phase = .exec) (hl : s.dinBuf.length = nin i) :
    s.settled = (effectOf i s).drain := by
  have hr := h.runWord_rewind (.inr hp)
  rw [h.runWord_rewind_of_full hl] at hr
  exact (Host.Outcome.next.inj hr).symm

/-! ### No edge changes what a state stands for -/

/-- A permutation's last edge writes the engine, and does not read it. -/
theorem State.commitPermutation_with_engine (s : State) (i : Instr) (e f : Engine) :
    State.commitPermutation { s with engine := e } i f = s.commitPermutation i f := by cases i <;> rfl

/-- In the middle of a permutation the effect is the last edge of that permutation, whatever number of rounds is done. -/
theorem effectOf_of_rounds_done {a : Lanes} {e : Engine} {n : Nat} (ha : permInput s i = some a)
    (he : s.engine = Engine.runRounds Config.build.rcSource n (e.load Config.build.rcSource a)) :
    effectOf i s =
      s.commitPermutation i (Engine.runRounds Config.build.rcSource 24 (e.load Config.build.rcSource a)) :=
  effectOf_of_permInput ha (by rw [he, Engine.runRounds_reload])

/-- In the middle of a permutation the block stands for the end of that permutation. -/
theorem State.Running.settled_of_rounds_done {a : Lanes} {e : Engine} {n : Nat} (h : s.Running i)
    (hp : s.phase = .exec) (hl : s.dinBuf.length = nin i) (ha : permInput s i = some a)
    (he : s.engine = Engine.runRounds Config.build.rcSource n (e.load Config.build.rcSource a)) :
    s.settled =
      (s.commitPermutation i
        (Engine.runRounds Config.build.rcSource 24 (e.load Config.build.rcSource a))).drain := by
  rw [h.settled_of_exec hp hl, effectOf_of_rounds_done ha he]

/-- Loading the engine does not change what the command's effect comes to. -/
theorem effectOf_enterExec_drain (hd : decode s.cmdWord = .ok i) :
    (effectOf i s.enterExec).drain = (effectOf i s).drain := by
  cases ha : permInput s i with
  | none =>
    have henter : s.enterExec = { s with phase := .exec } := by simp [State.enterExec, State.latched_eq hd, ha]
    rw [henter, effectOf_drain_phase]
  | some a =>
    have henter : s.enterExec = { s with phase := .exec, engine := s.engine.load Config.build.rcSource a } := by
      simp [State.enterExec, State.latched_eq hd, ha]
    have ha' : permInput { s with engine := s.engine.load Config.build.rcSource a } i = some a :=
      (permInput_congr rfl rfl i).trans ha
    rw [henter, effectOf_drain_phase i { s with engine := s.engine.load Config.build.rcSource a },
      effectOf_of_rounds_done (n := 0) ha' rfl, effectOf_of_permInput ha rfl, State.commitPermutation_with_engine]

/-- Entering phase EXEC, the block stands for the command performed from its start. -/
theorem State.Running.runWord_enterExec (h : s.Running i) (hl : s.dinBuf.length = nin i) :
    runWord s.cmdWord s.rewind = .next s.enterExec.settled := by
  have hrun : s.enterExec.Running i := (h.enterExec hl).toInv.running (.inr rfl) h.decodes
  rw [hrun.settled_of_exec rfl hl, effectOf_enterExec_drain h.decodes, h.runWord_rewind_of_full hl]

/-- A word that passes its check is run the same whatever word was latched before it. -/
theorem runWord_with_cmdWord (hc : checkWord w s.init = .none) (v : Word) :
    runWord w { s with cmdWord := v } = runWord w s := by
  obtain ⟨i, hd, hi⟩ := checkWord_eq_none_iff.mp hc
  simp only [runWord_of_decode hd, exec_eq_perform, perform, hi, if_true]
  rfl

/-- After a cmd transfer the block stands for what running the word answers. -/
theorem State.Inv.runWord_eq_acceptWord (h : s.Inv) (hp : s.phase = .idle) (w : Word) :
    runWord w s = .next (s.acceptWord w).settled := by
  have he : s.NoError := h.noError (by simp [hp])
  unfold State.acceptWord
  split
  next hc =>
    obtain ⟨i, hd, hi⟩ := checkWord_eq_none_iff.mp hc
    set t : State := { s with busy := true, cmdWord := w, dinBuf := [], doutPend := [] } with ht
    have hrun : t.Running i := ⟨he.congr rfl rfl rfl, rfl, rfl, hd, hi⟩
    have hbusy : s.busy = false := by simpa [hp] using h.busy_iff
    have hrewind : t.rewind = { s with cmdWord := w } := by
      simp [ht, State.rewind, hp, hbusy, h.no_din (.inl hp), h.no_dout (by simp [hp])]
    have hword : runWord t.cmdWord t.rewind = runWord w s :=
      (congrArg (runWord w) hrewind).trans (runWord_with_cmdWord hc w)
    rw [← hword]
    simp only [State.latched_eq hrun.decodes]
    split
    next =>
      have hdin : State.Running i { t with phase := .din } := ⟨hrun.noError.congr rfl rfl rfl, rfl, rfl, hd, hi⟩
      exact hdin.runWord_rewind (.inl rfl)
    next hn => exact hrun.runWord_enterExec (Nat.eq_zero_of_not_pos hn).symm
  next hc =>
    rw [runWord_rejected (State.halted_eq_false he.err (by simp [hp])) hc, State.settled_of_rest (.inr rfl)]

/-- A din transfer moves a byte from the host's end to the block's: run from its start, the command takes the same bytes. -/
theorem State.ClockInv.settled_takeByte (h : s.ClockInv) (hp : s.phase = .din) (hq : s.dinIn = b :: bs) :
    (State.takeByte { s with dinIn := bs } b).settled = s.settled := by
  obtain ⟨i, hd, hl⟩ := h.din_short hp
  have hs : s.Running i := h.running (.inl hp) hd
  have hsettled := hs.runWord_rewind (.inl hp)
  unfold State.takeByte
  set t : State := { s with dinIn := bs, dinBuf := s.dinBuf ++ [b] } with ht
  have hrun : t.Running i := ⟨hs.noError.congr rfl rfl rfl, hs.busy, hs.doutPend, hd, hs.passes⟩
  have hlen : t.dinBuf.length = s.dinBuf.length + 1 := by simp [ht]
  have hrewind : t.rewind = s.rewind := by simp [ht, State.rewind, hq]
  rw [← hrewind] at hsettled
  simp only [State.latched_eq hrun.decodes]
  split
  next => exact Host.Outcome.next.inj ((hrun.runWord_rewind (.inl hp)).symm.trans hsettled)
  next hn => exact Host.Outcome.next.inj ((hrun.runWord_enterExec (by omega)).symm.trans hsettled)

/-- With no DOUT byte pending, the end of phase DOUT finishes the command and no more. -/
theorem State.drain_of_no_dout (ho : s.doutPend = []) : s.drain = s.retire := by
  simp only [State.drain, State.retire, ho, List.append_nil]

/-- The end of EXEC: with its DOUT bytes taken the command has finished. -/
theorem State.settled_endExec (he : s.err = false) : s.endExec.settled = s.drain := by
  unfold State.endExec
  split
  next ho => rw [State.settled_of_rest (.inl rfl), State.drain_of_no_dout ho]
  next => exact State.settled_of_dout he rfl

/-- An EXEC edge of a command that does not permute. -/
theorem State.execEdge_of_effect (hd : decode s.cmdWord = .ok i) (ha : permInput s i = none) :
    s.execEdge = (effectOf i s).endExec := by
  simp only [State.execEdge, State.latched_eq hd, ha]

/-- An EXEC edge of a command that permutes. -/
theorem State.execEdge_of_permInput {a : Lanes} {f : Engine} (hd : decode s.cmdWord = .ok i)
    (ha : permInput s i = some a)
    (hf : Engine.runRounds Config.build.rcSource Config.build.roundsPerCycle.count s.engine = f) :
    s.execEdge = if f.round < 24 then { s with engine := f } else (s.commitPermutation i f).endExec := by
  simp only [State.execEdge, State.latched_eq hd, ha, hf]

/-- An EXEC edge at which the pipeline moves: the effect is performed, or the permutation goes on or ends, and in each case
the command comes to the same. -/
theorem State.ClockInv.settled_execEdge (h : s.ClockInv) (hp : s.phase = .exec) : s.execEdge.settled = s.settled := by
  obtain ⟨i, hd, hl⟩ := h.din_full hp
  have hs : s.Running i := h.running (.inr hp) hd
  cases ha : permInput s i with
  | none =>
    rw [hs.settled_of_exec hp hl, State.execEdge_of_effect hd ha]
    exact State.settled_endExec (by simp [effectOf_keeps, hs.noError.err])
  | some a =>
    obtain ⟨k, e, hk, he⟩ := h.rounds_done hp i a hd ha
    have hcycle := Engine.runRounds_cycle Config.build.rcSource Config.build.roundsPerCycle.count k
      (e.load Config.build.rcSource a)
    rw [← he] at hcycle
    generalize hf : Engine.runRounds Config.build.rcSource Config.build.roundsPerCycle.count s.engine = f at hcycle
    have hround : f.round = (k + 1) * Config.build.roundsPerCycle.count := by rw [hcycle, Engine.round_runRounds_load]
    rw [hs.settled_of_rounds_done hp hl ha he, State.execEdge_of_permInput hd ha hf, hround]
    split
    next =>
      have hrun : State.Running i { s with engine := f } :=
        ⟨hs.noError.congr rfl rfl rfl, hs.busy, hs.doutPend, hd, hs.passes⟩
      have ha' : permInput { s with engine := f } i = some a := (permInput_congr rfl rfl i).trans ha
      rw [hrun.settled_of_rounds_done hp hl ha' hcycle, State.commitPermutation_with_engine]
    next hend =>
      rw [hcycle, cycles_end (count_dvd _).1 hk (Nat.le_of_not_lt hend)]
      exact State.settled_endExec (by simp [commitPermutation_keeps, hs.noError.err])

/-- A dout transfer: the byte taken and those still pending are the bytes that were pending. -/
theorem State.ClockInv.settled_doutTaken (h : s.ClockInv) (hp : s.phase = .dout) (hq : s.doutPend = b :: bs) :
    (State.doutTaken { s with doutOut := s.doutOut ++ [b] }).settled = s.settled := by
  have he : s.err = false := (h.noError (by simp [hp])).err
  rw [State.settled_of_dout he hp]
  simp only [State.doutTaken, hq, List.tail_cons]
  split
  next hbs =>
    rw [State.settled_of_rest (.inl rfl)]
    simp [State.drain, hq, hbs]
  next =>
    rw [State.settled_of_dout (s := { s with doutOut := s.doutOut ++ [b], doutPend := bs }) he hp]
    simp [State.drain, hq]

/-- Settles O57: at a cmd transfer the block comes to stand for what running the word answers; any other cycle holds the
state, or is the transfer or the EXEC edge of its phase. -/
theorem clockRefinesTheStep : Obligations.ClockRefinesTheStep := by
  refine fun m s h => ⟨fun hp he hm hq => ?_, fun hno => ?_⟩
  · obtain ⟨w, ws, hq⟩ := List.exists_cons_of_ne_nil hq
    rw [step_of_idle_cons (State.halted_eq_false he (by simp [hp])) hp hq, tick_of_accept hp he hm hq]
    exact (h.toInv.with_cmdIn ws).runWord_eq_acceptWord hp w
  · cases hp : s.phase with
    | idle => rw [tick_of_idle hp (hno.resolve_left (absurd hp))]
    | din =>
      cases hm : m.din with
      | false => rw [tick_of_wait hp (.inl hm)]
      | true =>
        cases hq : s.dinIn with
        | nil => rw [tick_of_wait hp (.inr hq)]
        | cons b bs => rw [tick_of_take hp hm hq, h.settled_takeByte hp hq]
    | exec =>
      rw [tick_of_exec hp]
      split <;> [exact h.settled_execEdge hp; rfl]
    | dout =>
      cases hm : m.dout with
      | false => rw [tick_of_keep hp hm]
      | true =>
        obtain ⟨b, bs, hq⟩ := List.exists_cons_of_ne_nil (h.dout_some hp)
        rw [tick_of_give hp hm hq, h.settled_doutTaken hp hq]
    | halt => rw [tick_of_halt hp]

end Sys2Proof.Machine
end

/-! # The word of a command decodes to the command (30_encoding.md R73 to R81, R89)

The fields of a format lie side by side, so each is read past the operands placed above it and below it, and the reserved
bits lie above them all. -/
section

namespace Sys2Proof

section

variable {lsb width n k op : Nat}

/-- A field read past an operand that is placed above it. -/
@[simp] theorem field_or_place_above (w : Word) (h : lsb + width ≤ k) :
    field (w ||| place n k) lsb width = field w lsb width := by
  refine Nat.eq_of_testBit_eq fun j => ?_
  have hbelow : j < width → lsb + j < k := by omega
  by_cases hj : j < width <;> simp [hj, hbelow]

/-- A field read past an operand that fits the bits below it. -/
@[simp] theorem field_or_place_below (w : Word) (hk : k ≤ lsb) (hn : n < 2 ^ (lsb - k)) :
    field (w ||| place n k) lsb width = field w lsb width := by
  refine Nat.eq_of_testBit_eq fun j => ?_
  have hbit : n.testBit (lsb + j - k) = false := testBit_of_fits hn (by omega)
  simp [hbit]

/-- The field an operand is placed in holds it, beside what was there before. -/
@[simp] theorem field_or_place_same (w : Word) (hl : lsb + width ≤ 32) (hn : n < 2 ^ width) :
    field (w ||| place n lsb) lsb width = field w lsb width ||| n := by
  refine Nat.eq_of_testBit_eq fun j => ?_
  rw [Nat.testBit_or, testBit_field, testBit_field, BitVec.getLsbD_or, getLsbD_place]
  by_cases hj : j < width
  · have hin : lsb + j < 32 := by omega
    simp [hj, hin]
  · simp [hj, testBit_of_fits hn (Nat.le_of_not_lt hj)]

/-- The opcode of a word that is an opcode alone. -/
@[simp] theorem field_opcode (h : op < 2 ^ 4) : field (BitVec.ofNat 32 op) 0 4 = op := by
  refine field_eq_of_bits h fun j hj => ?_
  have hin : j < 32 := by omega
  rw [BitVec.getLsbD_ofNat, Nat.zero_add, decide_eq_true hin, Bool.true_and]

/-- A word that is an opcode alone has nothing above the opcode. -/
@[simp] theorem field_above_opcode (hl : 4 ≤ lsb) (h : op < 2 ^ 4) : field (BitVec.ofNat 32 op) lsb width = 0 := by
  refine field_eq_of_bits (Nat.two_pow_pos width) fun j _ => ?_
  rw [BitVec.getLsbD_ofNat, testBit_of_fits h (Nat.le_add_right_of_le hl), Bool.and_false, Nat.zero_testBit]

end

/-- Decoding the word of a well-formed command gives the command: in each format the fields give back the operands, and
nothing reaches the reserved bits. -/
theorem decode_encode {i : Instr} (h : i.WellFormed) : decode (encode i) = .ok i := by
  cases i with
  | cinit | sinit | perm => decide
  | xorl n | extl n | rdrc n | rdrho n | cbit n =>
    simp only [Instr.WellFormed, Instr.wellFormed, decide_eq_true_eq] at h
    simp (disch := omega) [decode, unreserved, encode]
  | xpe n m =>
    simp only [Instr.WellFormed, Instr.wellFormed, Bool.and_eq_true, decide_eq_true_eq] at h
    obtain ⟨hn, hm⟩ := h
    simp (disch := omega) [decode, unreserved, encode]
  | xorb lane off len | extb lane off len =>
    simp only [Instr.WellFormed, Instr.wellFormed, Bool.and_eq_true, decide_eq_true_eq] at h
    obtain ⟨⟨hlane, hoff⟩, hlen⟩ := h
    simp (disch := omega) [decode, unreserved, encode]

/-- Settles O1: `decode_encode` for every command that has a word. -/
theorem decodeOfEncodeIsIdentity : Obligations.DecodeOfEncodeIsIdentity := fun _ => decode_encode

/-- The operands a word decodes to are the contents of its fields, so they fit them (R81). -/
theorem wellFormed_of_decode {w : Word} {i : Instr} (h : decode w = .ok i) : i.WellFormed := by
  unfold decode at h
  split at h
  case h_12 => cases h
  all_goals
    obtain ⟨-, rfl⟩ := unreserved_eq_ok.mp h
    simp only [Instr.WellFormed, Instr.wellFormed, Bool.and_eq_true, decide_eq_true_eq]
  case h_4 | h_5 | h_8 | h_10 | h_11 => exact field_lt ..
  case h_9 => exact ⟨field_lt .., field_lt ..⟩
  case h_3 | h_7 => exact ⟨⟨field_lt .., field_lt ..⟩, field_lt ..⟩

/-- Settles O2: the operands fit their fields, and no bit of the word is dropped. -/
theorem encodeOfDecodeIsIdentity : Obligations.EncodeOfDecodeIsIdentity :=
  fun _ _ h => ⟨wellFormed_of_decode h, encode_of_decode h⟩

/-- Settles O5: the decoder evaluates on each of the four words. -/
theorem formatWordsDecode : Obligations.FormatWordsDecode :=
  ⟨by decide, by decide, by decide, by decide⟩

/-- Settles O6: `expand` is R90's table, and `encode` gives CINIT the word of NOP. -/
theorem pseudoInstructionsExpand : Obligations.PseudoInstructionsExpand := ⟨rfl, rfl, fun _ => ⟨rfl, rfl⟩⟩

end Sys2Proof
end

/-! # The formats, the opcode table and the rejected words (30_encoding.md R74 to R82)

The opcode table's masks and the check's reserved masks are the same cut: the bits from one bit up, by the format. -/
section

namespace Sys2Proof

open Machine

/-- The lowest reserved bit of the format an opcode selects: N, LB, BP, XC, and LC or IX (R74 to R79). -/
def reservedFrom (op : Nat) : Nat :=
  if op = 0x1 ∨ op = 0x2 ∨ op = 0x6 then 4
  else if op = 0x3 ∨ op = 0x7 then 16
  else if op = 0x5 then 15
  else if op = 0x9 then 14
  else 9

/-- The bits from bit `lsb` up. -/
def maskFrom (lsb : Nat) : Word := BitVec.allOnes 32 <<< lsb

variable {w : Word} {i : Instr} {lsb op : Nat}

@[simp] theorem getLsbD_maskFrom (lsb j : Nat) :
    (maskFrom lsb).getLsbD j = (decide (j < 32) && !decide (j < lsb)) := by
  rw [maskFrom, BitVec.getLsbD_shiftLeft, BitVec.getLsbD_allOnes]
  by_cases hj : j < 32
  · have hin : j - lsb < 32 := by omega
    simp [hj, hin]
  · simp [hj]

@[simp] theorem getElem_maskFrom (lsb j : Nat) (h : j < 32) : (maskFrom lsb)[j] = !decide (j < lsb) := by
  rw [← BitVec.getLsbD_eq_getElem, getLsbD_maskFrom]
  simp [h]

/-- The opcode is reserved in no format. -/
theorem le_reservedFrom (op : Nat) : 4 ≤ reservedFrom op := by
  unfold reservedFrom
  split_ifs <;> decide

/-- R212's masks are the reserved bits of the formats. -/
theorem reservedMask_eq (op : Nat) : reservedMask op = maskFrom (reservedFrom op) := by
  unfold reservedMask reservedFrom
  split_ifs <;> decide

/-- The bits from bit `lsb` up are 0. -/
theorem field_to_top_eq_zero_iff :
    field w lsb (32 - lsb) = 0 ↔ ∀ j < 32, lsb ≤ j → w.getLsbD j = false := by
  refine ⟨fun h j hj hl => ?_, fun h => field_eq_of_bits (Nat.two_pow_pos _) fun j hj => ?_⟩
  · have hbit := congrArg (·.testBit (j - lsb)) h
    have hin : j - lsb < 32 - lsb := by omega
    simpa only [testBit_field, hin, decide_true, Bool.true_and, Nat.zero_testBit, Nat.add_sub_of_le hl] using hbit
  · rw [h (lsb + j) (by omega) (Nat.le_add_right lsb j), Nat.zero_testBit]

/-- No bit shows through the mask when the bits from bit `lsb` up are 0. -/
theorem and_maskFrom_eq_zero_iff : w &&& maskFrom lsb = 0 ↔ field w lsb (32 - lsb) = 0 := by
  rw [field_to_top_eq_zero_iff]
  refine ⟨fun h j hj hl => ?_, fun h => BitVec.eq_of_getLsbD_eq fun j hj => ?_⟩
  · have hbit := congrArg (·.getLsbD j) h
    simpa [hj, Nat.not_lt.mpr hl] using hbit
  · by_cases hl : lsb ≤ j
    · simp [h j hj hl]
    · simp [Nat.lt_of_not_le hl]

/-- What the decoder does, said once: it rejects an illegal opcode, or the reserved bits decide. -/
theorem decode_cases (w : Word) :
    (field w 0 4 ∈ [0x0, 0xC, 0xD, 0xE, 0xF] ∧ decode w = .error .illegalOpcode) ∨
      ∃ i, field w 0 4 = tableRow i + 1 ∧ decode w = unreserved w (reservedFrom (field w 0 4)) i := by
  unfold decode
  split
  case h_12 =>
    have hlt : field w 0 4 < 16 := field_lt w 0 4
    refine .inl ⟨?_, rfl⟩
    simp only [imp_false, List.mem_cons, List.not_mem_nil, or_false] at *
    omega
  all_goals
    rename_i hop
    refine .inr ⟨_, ?_, by rw [hop]; rfl⟩
    exact hop

/-- The opcode table, by opcode: the opcode below, the reserved bits 0, and the operands free (R80). -/
theorem opcodeTable_eq : opcodeTable =
    (List.range 11).map fun k => (BitVec.ofNat 32 (k + 1), 0xF ||| maskFrom (reservedFrom (k + 1))) := by decide

/-- The low four bits, where the opcode stands. -/
theorem getLsbD_opcodeMask (j : Nat) : (0xF : Word).getLsbD j = decide (j < 4) := by
  rw [show (0xF : Word) = BitVec.ofNat 32 (2 ^ 4 - 1) from rfl, BitVec.getLsbD_ofNat, Nat.testBit_two_pow_sub_one]
  by_cases hj : j < 4 <;> simp [hj]
  omega

/-- A word matches a row when it has the row's opcode and its reserved bits are 0. -/
theorem matchesRow_iff (hop : op < 2 ^ 4) (hl : 4 ≤ lsb) :
    matchesRow w (BitVec.ofNat 32 op, 0xF ||| maskFrom lsb) = true ↔
      field w 0 4 = op ∧ field w lsb (32 - lsb) = 0 := by
  have hmask (j : Nat) (hj : j < 32) :
      (w &&& (0xF ||| maskFrom lsb)).getLsbD j = (w.getLsbD j && (decide (j < 4) || !decide (j < lsb))) := by
    rw [BitVec.getLsbD_and, BitVec.getLsbD_or, getLsbD_opcodeMask, getLsbD_maskFrom, decide_eq_true hj, Bool.true_and]
  have hword (j : Nat) (hj : j < 32) : (BitVec.ofNat 32 op).getLsbD j = op.testBit j := by
    rw [BitVec.getLsbD_ofNat, decide_eq_true hj, Bool.true_and]
  rw [matchesRow, beq_iff_eq]
  constructor
  · intro h
    have hbit (j : Nat) (hj : j < 32) := (hmask j hj).symm.trans ((congrArg (·.getLsbD j) h).trans (hword j hj))
    refine ⟨field_eq_of_bits hop fun j hj => ?_, field_to_top_eq_zero_iff.mpr fun j hj hr => ?_⟩
    · simpa [hj] using hbit j (by omega)
    · have hhigh : op.testBit j = false := testBit_of_fits hop (Nat.le_trans hl hr)
      simpa [hhigh, Nat.not_lt.mpr hr] using hbit j hj
  · rintro ⟨hw, hres⟩
    refine BitVec.eq_of_getLsbD_eq fun j hj => ?_
    rw [hmask j hj, hword j hj]
    by_cases h4 : j < 4
    · simp [← hw, h4]
    · rw [testBit_of_fits hop (Nat.le_of_not_lt h4)]
      by_cases hr : lsb ≤ j
      · rw [field_to_top_eq_zero_iff.mp hres j hj hr, Bool.false_and]
      · simp [h4, Nat.lt_of_not_le hr]

/-- The rows of the table, each by its number: it is matched by the words of one opcode with the reserved bits 0. -/
theorem matchesRow_iff_of_getElem? {k : Nat} {row : Word × Word} (h : opcodeTable[k]? = some row) :
    k < 11 ∧ (matchesRow w row = true ↔
      field w 0 4 = k + 1 ∧ field w (reservedFrom (k + 1)) (32 - reservedFrom (k + 1)) = 0) := by
  rw [opcodeTable_eq, List.getElem?_map, Option.map_eq_some_iff] at h
  obtain ⟨k', hk, rfl⟩ := h
  obtain ⟨hlt, rfl⟩ := List.getElem?_eq_some_iff.mp hk
  rw [List.length_range] at hlt
  rw [List.getElem_range]
  exact ⟨hlt, matchesRow_iff (by omega) (le_reservedFrom _)⟩

/-- A word that decodes has the opcode of its command and its reserved bits 0. -/
theorem fields_of_decode (h : decode w = .ok i) :
    field w 0 4 = tableRow i + 1 ∧
      field w (reservedFrom (tableRow i + 1)) (32 - reservedFrom (tableRow i + 1)) = 0 := by
  obtain ⟨-, he⟩ | ⟨j, hop, hd⟩ := decode_cases w
  · cases he.symm.trans h
  · obtain ⟨hres, rfl⟩ := unreserved_eq_ok.mp (hd.symm.trans h)
    exact ⟨hop, hop ▸ hres⟩

/-- A word of a legal opcode with its reserved bits 0 decodes. -/
theorem decode_isOk_of_fields {k : Nat} (hk : k < 11) (hop : field w 0 4 = k + 1)
    (hres : field w (reservedFrom (k + 1)) (32 - reservedFrom (k + 1)) = 0) : ∃ i, decode w = .ok i := by
  obtain ⟨hill, -⟩ | ⟨i, -, hd⟩ := decode_cases w
  · simp only [hop, List.mem_cons, List.not_mem_nil, or_false] at hill
    omega
  · rw [hop] at hd
    exact ⟨i, hd.trans (unreserved_eq_ok.mpr ⟨hres, rfl⟩)⟩

/-- Settles O3: a row is its opcode and its reserved bits, and so is decoding to a command of that row. -/
theorem decodeFollowsTheOpcodeTable : Obligations.DecodeFollowsTheOpcodeTable := by
  refine fun w => ⟨fun i hd k row hrow => ?_, fun e he row hmem => ?_⟩
  · obtain ⟨hop, hres⟩ := fields_of_decode hd
    rw [(matchesRow_iff_of_getElem? hrow).2]
    refine ⟨fun ⟨hk, _⟩ => by omega, fun hk => ?_⟩
    rw [hk]
    exact ⟨hop, hres⟩
  · obtain ⟨k, hrow⟩ := List.getElem?_of_mem hmem
    obtain ⟨hk, hiff⟩ := matchesRow_iff_of_getElem? (w := w) hrow
    rw [← Bool.not_eq_true, hiff]
    rintro ⟨hop, hres⟩
    obtain ⟨i, hd⟩ := decode_isOk_of_fields hk hop hres
    cases he.symm.trans hd

/-- When `unreserved` rejects a word, a reserved bit is 1. -/
theorem unreserved_eq_error {e : DecodeError} :
    unreserved w lsb i = .error e ↔ field w lsb (32 - lsb) ≠ 0 ∧ e = .reservedBits := by
  unfold unreserved
  split <;> simp_all [eq_comm]

/-- No command's opcode is illegal. -/
theorem tableRow_not_illegal (i : Instr) : tableRow i + 1 ∉ [0x0, 0xC, 0xD, 0xE, 0xF] := by cases i <;> simp [tableRow]

/-- R82: the words rejected as illegal are those of the five opcodes that have no command. -/
theorem decode_eq_illegalOpcode_iff :
    decode w = .error .illegalOpcode ↔ field w 0 4 ∈ [0x0, 0xC, 0xD, 0xE, 0xF] := by
  obtain ⟨hill, he⟩ | ⟨i, hop, hd⟩ := decode_cases w
  · exact iff_of_true he hill
  · rw [hd, unreserved_eq_error, hop]
    exact iff_of_false (fun ⟨_, he⟩ => nomatch he) (tableRow_not_illegal i)

/-- R82: the words rejected as malformed are those of a legal opcode with a reserved bit 1. -/
theorem decode_eq_reservedBits_iff :
    decode w = .error .reservedBits ↔
      field w 0 4 ∉ [0x0, 0xC, 0xD, 0xE, 0xF] ∧ w &&& reservedMask (field w 0 4) ≠ 0 := by
  rw [reservedMask_eq, Ne, and_maskFrom_eq_zero_iff]
  obtain ⟨hill, he⟩ | ⟨i, hop, hd⟩ := decode_cases w
  · rw [he]
    exact iff_of_false (fun h => nomatch h) (fun ⟨hlegal, _⟩ => hlegal hill)
  · have hlegal : field w 0 4 ∉ [0x0, 0xC, 0xD, 0xE, 0xF] := hop ▸ tableRow_not_illegal i
    rw [hd, unreserved_eq_error, and_iff_left rfl, and_iff_right hlegal]

/-- Settles O4: the two kinds of word by what the decoder does, and the rejection by the step of an idle block. -/
theorem illegalAndMalformedWordsAreRejected : Obligations.IllegalAndMalformedWordsAreRejected := by
  refine ⟨fun w => decode_eq_illegalOpcode_iff, fun w => decode_eq_reservedBits_iff, by decide,
    fun w e s ws hd hh hp hq => ?_⟩
  have hstep := (step_of_idle_cons hh hp hq).trans (runWord_of_decode_error (s := { s with cmdIn := ws }) hh hd)
  exact ⟨_, hstep, by simp⟩

end Sys2Proof
end

/-! # The framing of a command and the wait for its DIN bytes (30_encoding.md R72, R84, 60_exceptions.md R226) -/
section

namespace Sys2Proof.Machine

variable {w : Word} {i : Instr} {s t : State}

/-! ### Framing -/

/-- A command's effect gives Nout DOUT bytes after those pending (R84). -/
theorem effectOf_doutPend (i : Instr) (s : State) :
    ∃ out, out.length = nout i ∧ (effectOf i s).doutPend = s.doutPend ++ out := by
  cases i with
  | cinit | sinit | xorb | xorl | cbit | perm =>
    exact ⟨[], rfl, by simp [effectOf, cinitEffect, sinitEffect, xorbEffect, xorlEffect, cbitEffect, permEffect]⟩
  | extb | rdrc => exact ⟨_, length_bytesOf .., rfl⟩
  | extl => exact ⟨_, length_extractLanes .., rfl⟩
  | xpe n m =>
    exact ⟨extractLanes (permuteFrom (xorLanes s.lanes n s.dinBuf) s).lanes m, length_extractLanes .., rfl⟩
  | rdrho => exact ⟨_, rfl, rfl⟩

/-- Settles O13: the table by evaluation; a performed command takes its DIN bytes when it begins and gives what its effect
wrote, and the error entry touches neither channel. -/
theorem framingIsFixedByTheCommand : Obligations.FramingIsFixedByTheCommand := by
  refine ⟨by simp [nin, nout], fun i s hh => ⟨fun hc hn => ?_, fun hc => ?_⟩⟩
  · obtain ⟨out, hlen, hout⟩ := effectOf_doutPend i (s.begin (encode i) (nin i))
    refine ⟨_, out, (exec_eq_perform i s).trans (perform_done hh hc hn), ?_, hlen, ?_⟩
    · simp [effectOf_keeps]
    · simp [effectOf_keeps, hout]
  · exact ⟨_, (exec_eq_perform i s).trans (perform_rejected hh hc), rfl, rfl⟩

/-! ### Waiting for DIN bytes -/

/-- A command that passes its check has no range violated. -/
theorem rangeCheck_of_check {init : Bool} (hc : check i init = .none) : rangeCheck i = .none := by
  unfold check at hc
  split at hc
  · assumption
  · exact hc

/-- A command in range that takes DIN bytes has operands that fit their fields: of the operands in range only an offset of 8
does not, and it leaves no byte to take. -/
theorem wellFormed_of_rangeCheck (hr : rangeCheck i = .none) (hn : 0 < nin i) : i.WellFormed := by
  cases i with
  | cinit | sinit | perm | cbit | extb | extl | rdrc | rdrho => cases hn
  | xorl n =>
    have hle : n ≤ 25 := by simpa [rangeCheck] using hr
    simp only [Instr.WellFormed, Instr.wellFormed, decide_eq_true_eq]
    omega
  | xpe n m =>
    have hle : n ≤ 25 ∧ m ≤ 25 := by simpa [rangeCheck] using hr
    simp only [Instr.WellFormed, Instr.wellFormed, Bool.and_eq_true, decide_eq_true_eq]
    omega
  | xorb lane off len =>
    have hle : lane ≤ 24 ∧ off + len ≤ 8 := by
      rw [rangeCheck] at hr
      split_ifs at hr
      omega
    have hlen : 0 < len := hn
    simp only [Instr.WellFormed, Instr.wellFormed, Bool.and_eq_true, decide_eq_true_eq]
    omega

/-- The word latched by a command that waits for DIN bytes decodes to that command. -/
theorem decode_encode_of_short {init : Bool} {n : Nat} (hc : check i init = .none) (hn : n < nin i) :
    decode (encode i) = .ok i :=
  decode_encode (wellFormed_of_rangeCheck (rangeCheck_of_check hc) (Nat.zero_lt_of_lt hn))

/-- A block that is not halted has no error recorded. -/
theorem State.err_eq_false (s : State) (hh : s.halted = false) : s.err = false := by
  rw [State.halted, Bool.or_eq_false_iff] at hh
  exact hh.1

/-- A waiting command with more DIN bytes offered, run from its start, is the command on the state it was given in with the
bytes added to those there were. -/
theorem step_awaitDin (hh : s.halted = false) (hc : check i s.init = .none) (hn : s.dinIn.length < nin i)
    (more : List Byte) :
    step { s.awaitDin (encode i) with dinIn := more } = exec i { s with dinIn := s.dinIn ++ more } := by
  have hd : decode (encode i) = .ok i := decode_encode_of_short hc hn
  have he : s.err = false := s.err_eq_false hh
  set u : State := { s.awaitDin (encode i) with dinIn := more } with hu
  have hhu : u.halted = false := State.halted_eq_false he (by simp [hu])
  have hhr : u.rewind.halted = false := State.halted_eq_false he (by simp)
  set v : State := { s with dinIn := s.dinIn ++ more } with hv
  rw [step_of_running hhu (.inl rfl), exec_eq_perform]
  rcases Nat.lt_or_ge v.dinIn.length (nin i) with hlen | hlen
  · rw [perform_waits (s := v) hh hc hlen]
    exact runWord_waits hhr hd hc hlen
  · rw [perform_done (s := v) hh hc hlen]
    exact runWord_done hhr hd hc hlen

/-- Settles O14: the command waits, and a step without more bytes runs it again on the state it was given in. -/
theorem starvedCommandWaits : Obligations.StarvedCommandWaits := by
  intro i s hh hc hn
  have hexec : exec i s = .next (s.awaitDin (encode i)) := (exec_eq_perform i s).trans (perform_waits hh hc hn)
  have hstep := step_awaitDin hh hc hn []
  rw [List.append_nil] at hstep
  exact ⟨_, hexec, rfl, rfl, rfl, rfl, rfl, rfl, rfl, rfl, rfl, hstep.trans hexec⟩

/-- Settles O15: the next state of a command given too few bytes is the waiting one. -/
theorem lateBytesCompleteTheCommand : Obligations.LateBytesCompleteTheCommand := by
  intro i s t more hc hn h
  rw [exec_eq_perform] at h
  obtain ⟨hh, ⟨-, hle, -⟩ | ⟨-, -, rfl⟩ | ⟨hne, -⟩⟩ := perform_cases h
  · exact absurd hn (Nat.not_lt.mpr hle)
  · exact step_awaitDin hh hc hn more
  · exact absurd hc hne

end Sys2Proof.Machine
end

/-! # Every command finishes in finitely many cycles (30_encoding.md R72, 70_reset_and_hazards.md R252)

With a willing host and a moving pipeline, every cycle of a block with a command in progress brings the command to a later
phase or leaves less to do in its phase, unless it waits for DIN bytes that the host does not have. -/
section

namespace Sys2Proof.Machine

variable {b : Byte} {bs : List Byte} {s t : State}

/-! ### A cycle keeps the clock's invariant -/

/-- The clock's invariant does not look at the host's ends of the channels. -/
theorem State.ClockInv.with_host (h : s.ClockInv) (c : List Word) (d o : List Byte) :
    State.ClockInv { s with cmdIn := c, dinIn := d, doutOut := o } where
  toInv := ⟨h.err_iff_halt, h.code_none, h.code_some, h.busy_iff, h.no_din, h.no_dout, h.in_progress⟩
  din_short := h.din_short
  din_full := h.din_full
  dout_some := h.dout_some
  rounds_done hp i a hd ha := h.rounds_done hp i a hd ((permInput_congr rfl rfl i).symm.trans ha)

/-- A cycle is a clock edge with the host's ends of the channels moved on, so it keeps the clock's invariant. -/
theorem tick_keeps_clockInv (h : s.ClockInv) (m : Move) : (tick m s).ClockInv :=
  (clockKeepsItsInvariant (m.ports s) m.advance s h).with_host _ _ _

/-! ### What is left to do -/

/-- How many phases of a command are not over (R72). -/
def Phase.remaining : Phase → Nat
  | .idle => 0
  | .halt => 0
  | .dout => 1
  | .exec => 2
  | .din => 3

/-- How much is left to do in the phase: DIN bytes the host has, rounds, or DOUT bytes pending. -/
def State.workInPhase (s : State) : Nat :=
  match s.phase with
  | .idle => 0
  | .halt => 0
  | .dout => s.doutPend.length
  | .exec => 24 - s.engine.round
  | .din => s.dinIn.length

/-- What is left of the command in progress: the later phases come before the work in the present one. -/
def State.remaining (s : State) : Nat ×ₗ Nat := toLex (s.phase.remaining, s.workInPhase)

/-- A state in a later phase has less left to do. -/
theorem State.remaining_lt_of_phase (h : t.phase.remaining < s.phase.remaining) : t.remaining < s.remaining :=
  Prod.Lex.toLex_lt_toLex.mpr (.inl h)

/-- A state in the same phase with less work in it has less left to do. -/
theorem State.remaining_lt_of_work (hp : t.phase = s.phase) (h : t.workInPhase < s.workInPhase) :
    t.remaining < s.remaining :=
  Prod.Lex.toLex_lt_toLex.mpr (.inr ⟨congrArg Phase.remaining hp, h⟩)

/-- A din transfer leaves a byte less to take, or ends phase DIN. -/
theorem State.takeByte_remaining_lt (hp : s.phase = .din) (hq : s.dinIn = b :: bs) :
    (State.takeByte { s with dinIn := bs } b).remaining < s.remaining := by
  have hstay (buf : List Byte) : State.remaining { s with dinIn := bs, dinBuf := buf } < s.remaining :=
    State.remaining_lt_of_work rfl (by simp [State.workInPhase, hp, hq])
  unfold State.takeByte
  dsimp only
  split
  · split
    · exact hstay _
    · exact State.remaining_lt_of_phase (by simp [State.enterExec, hp, Phase.remaining])
  · exact hstay _

/-- The end of EXEC leaves DOUT bytes to take at most. -/
theorem State.endExec_phase_remaining (s : State) : s.endExec.phase.remaining ≤ 1 := by
  unfold State.endExec
  split <;> simp [Phase.remaining]

/-- An EXEC edge at which the pipeline moves has more rounds done, or ends phase EXEC. -/
theorem State.ClockInv.execEdge_remaining_lt (h : s.ClockInv) (hp : s.phase = .exec) :
    s.execEdge.remaining < s.remaining := by
  have hend {u : State} (hu : u.phase.remaining ≤ 1) : u.remaining < s.remaining :=
    State.remaining_lt_of_phase (Nat.lt_of_le_of_lt hu (by rw [hp]; decide))
  obtain ⟨i, hd, -⟩ := h.din_full hp
  cases ha : permInput s i with
  | none =>
    rw [State.execEdge_of_effect hd ha]
    exact hend (State.endExec_phase_remaining _)
  | some a =>
    rw [State.execEdge_of_permInput hd ha rfl]
    split
    next hround =>
      have hcount := (count_dvd Config.build.roundsPerCycle).2
      refine State.remaining_lt_of_work rfl ?_
      rw [Engine.round_runRounds] at hround
      simp only [State.workInPhase, hp, Engine.round_runRounds]
      omega
    next => exact hend (State.endExec_phase_remaining _)

/-- A dout transfer leaves a byte less to be taken, or ends phase DOUT. -/
theorem State.doutTaken_remaining_lt (hp : s.phase = .dout) (hq : s.doutPend = b :: bs) :
    (State.doutTaken { s with doutOut := s.doutOut ++ [b] }).remaining < s.remaining := by
  unfold State.doutTaken
  split
  · exact State.remaining_lt_of_phase (by simp [hp, Phase.remaining])
  · exact State.remaining_lt_of_work rfl (by simp [State.workInPhase, hp, hq])

/-- The host offers and takes whenever it can, and the pipeline moves. -/
def Move.willing : Move := ⟨true, true, true, true⟩

/-- With a willing host a cycle of a command in progress leaves less to do, unless phase DIN has no byte offered. -/
theorem State.ClockInv.tick_remaining_lt (h : s.ClockInv) (hp : s.phase = .din ∨ s.phase = .exec ∨ s.phase = .dout)
    (hq : s.phase = .din → s.dinIn ≠ []) : (tick .willing s).remaining < s.remaining := by
  rcases hp with hp | hp | hp
  · obtain ⟨b, bs, hb⟩ := List.exists_cons_of_ne_nil (hq hp)
    rw [tick_of_take hp rfl hb]
    exact State.takeByte_remaining_lt hp hb
  · rw [tick_of_exec hp]
    exact h.execEdge_remaining_lt hp
  · obtain ⟨b, bs, hb⟩ := List.exists_cons_of_ne_nil (h.dout_some hp)
    rw [tick_of_give hp rfl hb]
    exact State.doutTaken_remaining_lt hp hb

/-- A block that waits for DIN bytes and is offered none stands for a block in phase DIN. -/
theorem State.ClockInv.settled_phase_of_starved (h : s.ClockInv) (hp : s.phase = .din) (hq : s.dinIn = []) :
    s.settled.phase = .din := by
  obtain ⟨i, hd, hl⟩ := h.din_short hp
  have hs : s.Running i := h.running (.inl hp) hd
  have hn : s.rewind.dinIn.length < nin i := by simpa [hq] using hl
  have hr := hs.runWord_rewind (.inl hp)
  rw [runWord_waits hs.halted_rewind hd hs.passes hn] at hr
  rw [← Host.Outcome.next.inj hr]
  rfl

/-- The clocked block comes to the state it stands for, unless that one waits for DIN bytes. -/
theorem ticks_eq_settled (s : State) (h : s.ClockInv) (hs : s.settled.phase ≠ .din) :
    ∃ n, ticks .willing n s = s.settled := by
  by_cases hp : s.phase = .din ∨ s.phase = .exec ∨ s.phase = .dout
  · have hidle : s.phase ≠ .idle := by rcases hp with hp | hp | hp <;> simp [hp]
    have hsettled : (tick .willing s).settled = s.settled :=
      (clockRefinesTheStep .willing s h).2 (.inl hidle)
    have hless := h.tick_remaining_lt hp fun hd hq => hs (h.settled_phase_of_starved hd hq)
    obtain ⟨n, hn⟩ := ticks_eq_settled _ (tick_keeps_clockInv h .willing) (hsettled ▸ hs)
    exact ⟨n + 1, hn.trans hsettled⟩
  · have hrest : s.phase = .idle ∨ s.phase = .halt := by
      revert hp
      cases s.phase <;> simp
    exact ⟨0, (State.settled_of_rest hrest).symm⟩
termination_by s.remaining
decreasing_by exact hless

/-- Settles O58: the cycle of the cmd transfer brings the block to a state that stands for the step's next state, and the
cycles after it to that state itself. -/
theorem commandsFinishInFinitelyManyCycles : Obligations.CommandsFinishInFinitelyManyCycles := by
  intro s t h hp hq hs ht
  have he : s.err = false := (h.noError (by simp [hp])).err
  have hstep := (clockRefinesTheStep .willing s h).1 hp he rfl hq
  obtain rfl : t = (tick .willing s).settled := Host.Outcome.next.inj (hs.symm.trans hstep)
  obtain ⟨n, hn⟩ := ticks_eq_settled _ (tick_keeps_clockInv h .willing) ht
  exact ⟨n + 1, hn⟩

end Sys2Proof.Machine
end

/-! # The derived constants (40_constants.md R100 to R106) -/
section

namespace Sys2Proof.Machine

/-! ### The LFSR (R100, R103) -/

/-- The LFSR register after one step (R100). -/
def lfsrNext (l : Byte) : Byte := (lfsrStep l).2

/-- From 0x01 the register is back after 255 steps, and not after 255 / p steps for any of the primes 3, 5 and 17. -/
theorem lfsrNext_returns :
    lfsrNext^[255] 0x01 = 0x01 ∧ lfsrNext^[85] 0x01 ≠ 0x01 ∧ lfsrNext^[51] 0x01 ≠ 0x01 ∧ lfsrNext^[15] 0x01 ≠ 0x01 := by
  decide +kernel

/-- A number of steps below 255 that brought the register back would share with 255 a divisor that does so too; that
divisor divides 85, 51 or 15, after which the register is not back. -/
theorem lfsrNext_ne_seed {n : Nat} (hpos : n ≠ 0) (hn : n < 255) : lfsrNext^[n] 0x01 ≠ 0x01 := by
  intro hback
  obtain ⟨hperiod, h85, h51, h15⟩ := lfsrNext_returns
  have hgcd : Function.IsPeriodicPt lfsrNext (Nat.gcd 255 n) 0x01 := Function.IsPeriodicPt.gcd hperiod hback
  have hproper : Nat.gcd 255 n ∈ Nat.properDivisors 255 :=
    Nat.mem_properDivisors.mpr
      ⟨Nat.gcd_dvd_left 255 n, (Nat.gcd_le_right 255 (Nat.pos_of_ne_zero hpos)).trans_lt hn⟩
  have hdvd : ∀ d ∈ Nat.properDivisors 255, d ∣ 85 ∨ d ∣ 51 ∨ d ∣ 15 := by decide +kernel
  rcases hdvd _ hproper with hd | hd | hd
  · exact h85 (hgcd.trans_dvd hd)
  · exact h51 (hgcd.trans_dvd hd)
  · exact h15 (hgcd.trans_dvd hd)

/-- Settles O36: the step is R100's by definition, and 255 is the period. -/
theorem lfsrStepAndPeriod : Obligations.LfsrStepAndPeriod :=
  ⟨fun _ => ⟨rfl, rfl⟩, lfsrNext_returns.1, fun _ hn hpos => lfsrNext_ne_seed hpos (List.mem_range.mp hn)⟩

/-- The register at the start of each of the 24 rounds, as R103 lists it. -/
theorem map_lfsrAt_range : (List.range 24).map lfsrAt =
    [0x01, 0x80, 0xD8, 0x1A, 0xDF, 0x09, 0x35, 0x4F, 0xCA, 0x70, 0x41, 0xEC,
     0xD5, 0xCD, 0x63, 0xAB, 0xAA, 0x2A, 0xF2, 0xE8, 0x37, 0x3E, 0x0B, 0x44] := by
  decide +kernel

/-- The register after the 24 rounds (V1.1). -/
theorem lfsrAt_24 : lfsrAt 24 = 0x8E := by decide +kernel

/-- Settles O39: the engine's constants and register run through R101's derivation, whatever the engine held before. -/
theorem eitherSourceGivesTheRoundConstants : Obligations.EitherSourceGivesTheRoundConstants :=
  ⟨fun src a e _ hr => Engine.roundConstant_runRounds src a e hr, fun a e r _ => Engine.lfsr_runRounds_lfsr r a e,
    map_lfsrAt_range⟩

/-! ### The round constants (R101, R102) -/

/-- The step for position `2^j - 1` sets no other bit (R101). -/
theorem getLsbD_rcBit {acc : Lane × Byte} {j b : Nat} (h : (rcBit acc j).1.getLsbD b = true) :
    acc.1.getLsbD b = true ∨ b = 2 ^ j - 1 := by
  simp only [rcBit] at h
  split at h
  · rw [BitVec.getLsbD_or, Bool.or_eq_true] at h
    refine h.imp_right fun hb => ?_
    simp only [BitVec.natCast_eq_ofNat, BitVec.getLsbD_ofNat, Nat.one_shiftLeft, Nat.testBit_two_pow, Bool.and_eq_true,
      decide_eq_true_eq] at hb
    exact hb.2.symm
  · exact .inl h

/-- Steps for the positions `2^j - 1` of a list set bits at those positions only (R101). -/
theorem getLsbD_foldl_rcBit (js : List Nat) (acc : Lane × Byte) (b : Nat)
    (h : (js.foldl rcBit acc).1.getLsbD b = true) : acc.1.getLsbD b = true ∨ ∃ j ∈ js, b = 2 ^ j - 1 := by
  induction js generalizing acc with
  | nil => exact .inl h
  | cons j js ih =>
    rcases ih _ h with hb | ⟨k, hk, hkb⟩
    · exact (getLsbD_rcBit hb).imp_right fun hjb => ⟨j, List.mem_cons_self, hjb⟩
    · exact .inr ⟨k, List.mem_cons_of_mem j hk, hkb⟩

/-- A derived round constant has bits at the seven positions `2^j - 1` only (R101). -/
theorem getLsbD_rcDerived {r b : Nat} (h : (rcDerived r).getLsbD b = true) : ∃ j < 7, b = 2 ^ j - 1 := by
  rcases getLsbD_foldl_rcBit (List.range 7) _ b h with hb | ⟨j, hj, hb⟩
  · simp at hb
  · exact ⟨j, List.mem_range.mp hj, hb⟩

/-- Settles O37: the table is the derivation's by evaluation, and the derivation sets bits at seven positions only. -/
theorem roundConstantsAreTheLfsrs : Obligations.RoundConstantsAreTheLfsrs := by
  have hpositions : ∀ j < 7, 2 ^ j - 1 ∈ [0, 1, 3, 7, 15, 31, 63] := by decide
  refine ⟨rc_eq_rcDerived, fun r hr b _ hb => ?_⟩
  rw [rc_eq_rcDerived r hr] at hb
  obtain ⟨j, hj, rfl⟩ := getLsbD_rcDerived hb
  exact hpositions j hj

/-! ### The rotation offsets (R104 to R106) -/

/-- The printed table of offsets is the one the orbit fills (R105). -/
theorem rhoTable_eq_rhoDerived : rhoTable = rhoDerived := by decide

/-- The offset of a lane is the one the orbit assigns to it. -/
theorem rhoOffset_eq_rhoDerived {i : Nat} (h : i < 25) : rhoOffset i = rhoDerived[i] := by
  rw [rhoOffset, rhoTable_eq_rhoDerived, Vector.getElem?_eq_getElem h, Option.getD_some]

/-- Every offset is an amount in 0..63. -/
theorem rhoOffset_lt : ∀ i < 25, rhoOffset i < 64 := by decide

/-- The positions of the 24 steps of the orbit (R106). -/
theorem map_orbitAt_range : (List.range 24).map orbitAt =
    [(1, 0), (0, 2), (2, 1), (1, 2), (2, 3), (3, 3), (3, 0), (0, 1), (1, 3), (3, 1), (1, 4), (4, 4),
     (4, 0), (0, 3), (3, 4), (4, 3), (3, 2), (2, 2), (2, 0), (0, 4), (4, 2), (2, 4), (4, 1), (1, 1)] := by decide

/-- The orbit visits lane 0 never and every other lane once (R106). -/
theorem orbit_visits : ∀ i : Fin 25,
    ((List.range 24).filter fun t => idx (orbitAt t).1 (orbitAt t).2 = i).length = if i = 0 then 0 else 1 := by
  decide +kernel

/-- Settles O38: the orbit and its table, evaluated; the orbit is back at (1, 0) and the untruncated offsets are the
listed ones by computation. -/
theorem rotationOffsetsFollowTheOrbit : Obligations.RotationOffsetsFollowTheOrbit :=
  ⟨rhoTable_eq_rhoDerived, rhoOffset_lt, map_orbitAt_range, rfl, orbit_visits, rfl⟩

end Sys2Proof.Machine
end

/-! # The engine's permutation (40_constants.md R103, 41_permutation.md R125 to R127, 95_test_vectors.md V1.1) -/
section

namespace Sys2Proof.Machine

/-- The staged lanes of a whole permutation (R126, R127). -/
theorem Engine.stage_permute (src : RcSource) (a : Lanes) (e : Engine) : (e.permute src a).stage = keccakF a := by
  rw [Engine.permute]
  exact Engine.stage_runRounds_whole src a e

/-- The LFSR register at the end of a whole permutation under LFSR (R103, V1.1). -/
theorem Engine.lfsr_permute (a : Lanes) (e : Engine) : (e.permute .lfsr a).lfsr = 0x8E := by
  rw [Engine.permute]
  exact (Engine.lfsr_runRounds_lfsr 24 a e).trans lfsrAt_24

/-- Settles O43: the rounds build up Keccak-f, and stopping the engine leaves its lanes and its register. -/
theorem engineComputesKeccakF : Obligations.EngineComputesKeccakF := by
  intro src a e
  refine ⟨Engine.stage_runRounds_whole src a e, Engine.stage_permute src a e, ?_⟩
  rintro rfl
  exact Engine.lfsr_permute a e

end Sys2Proof.Machine
end

/-! # Commands performed whole, and the commands of the constants (30_encoding.md R72, R84, 40_constants.md R107 to R109) -/
section

namespace Sys2Proof.Machine

variable {i : Instr} {s : State}

/-- Whatever its effect, a command performed whole leaves the block finished (R72, R84). -/
theorem State.finished_drain (i : Instr) (s : State) :
    State.Finished i s (effectOf i (s.begin (encode i) (nin i))).drain := by
  constructor <;> simp [effectOf_keeps]

/-- A command that passes its check, takes no DIN byte and has DOUT bytes as its whole effect gives those bytes, and changes
neither A nor INIT nor the working registers. -/
theorem exec_of_doutWrite {bytes : List Byte} (hh : s.halted = false) (hc : check i s.init = .none) (hn : nin i = 0)
    (heffect : effectOf i (s.begin (encode i) (nin i)) = (s.begin (encode i) (nin i)).doutWrite bytes) :
    ∃ t, exec i s = .next t ∧ State.Finished i s t ∧ t.doutOut = s.doutOut ++ bytes ∧ t.lanes = s.lanes ∧
      t.init = s.init ∧ t.engine = s.engine := by
  have hexec := (exec_eq_perform i s).trans (perform_done hh hc (by simp [hn]))
  refine ⟨_, hexec, State.finished_drain i s, ?_⟩
  simp [heffect]

/-- The check of a command that does not need INIT is that of its ranges (R212). -/
theorem check_eq_none (hr : rangeCheck i = .none) (hi : needsInit i = false) (init : Bool) : check i init = .none := by
  simp [check, hr, hi]

/-- The bytes of a lane from byte 0 up. -/
theorem bytesOf_zero (v : Lane) (len : Nat) : bytesOf v 0 len = (List.range len).map (byteOf v) := by
  simp [bytesOf]

/-- Settles O16: CINIT gives no DOUT byte, and that is all of its effect. -/
theorem cinitDoesNothing : Obligations.CinitDoesNothing := by
  intro s hh
  obtain ⟨t, hexec, hfin, hout, hlanes, hinit, hengine⟩ :=
    exec_of_doutWrite (bytes := []) hh (check_eq_none (i := .cinit) rfl rfl s.init) rfl rfl
  exact ⟨t, hexec, hfin, hlanes, hinit, hengine, hout.trans (List.append_nil _)⟩

/-- Settles O25: RDRC gives the table's bytes, and the table is the derivation's. -/
theorem rdrcGivesTheRoundConstant : Obligations.RdrcGivesTheRoundConstant := by
  intro r s hr hh
  have hrange : rangeCheck (.rdrc r) = .none := if_neg (Nat.not_lt.mpr hr)
  rw [← rc_eq_rcDerived r (Nat.lt_succ_of_le hr), ← bytesOf_zero]
  exact exec_of_doutWrite hh (check_eq_none hrange rfl s.init) rfl rfl

/-- Settles O26: RDRHO gives the table's offset, and the table is the derivation's. -/
theorem rdrhoGivesTheRotationOffset : Obligations.RdrhoGivesTheRotationOffset := by
  intro i s hi hh
  have hrange : rangeCheck (.rdrho i) = .none := if_neg (Nat.not_lt.mpr (Nat.le_of_lt_succ hi))
  obtain ⟨t, hexec, hfin, hout, hkeeps⟩ :=
    exec_of_doutWrite hh (check_eq_none hrange rfl s.init) rfl (bytes := [BitVec.ofNat 8 (rhoOffset i)]) rfl
  rw [← rhoOffset_eq_rhoDerived hi]
  exact ⟨t, hexec, hfin, hout, rhoOffset_lt i hi, hkeeps⟩

end Sys2Proof.Machine
end

/-! # The five steps at each position (x, y), and PERM (00_scope.md R12, 41_permutation.md R120 to R124, R128) -/
section

namespace Sys2Proof.Machine

/-! ### Positions (R12) -/

/-- The column of a position. -/
@[simp] theorem idx_mod (x y : Nat) : (idx x y).val % 5 = x % 5 := by
  simp [idx]

/-- The row of a position. -/
@[simp] theorem idx_div (x y : Nat) : (idx x y).val / 5 = y % 5 := by
  simp only [idx]
  omega

/-- The two coordinates are taken modulo 5. -/
theorem idx_congr {x x' y y' : Nat} (hx : x % 5 = x' % 5) (hy : y % 5 = y' % 5) : idx x y = idx x' y' := by
  simp [idx, hx, hy]

@[simp] theorem idx_mod_mod (x y : Nat) : idx x (y % 5) = idx x y := idx_congr rfl (Nat.mod_mod y 5)

/-- A step along a row from a reduced column. -/
@[simp] theorem idx_mod_add (x k y : Nat) : idx (x % 5 + k) y = idx (x + k) y := idx_congr (by omega) rfl

/-- Every position is that of its column and its row. -/
theorem idx_mod_div (j : Fin 25) : idx (j.val % 5) (j.val / 5) = j := by
  ext
  simp only [idx]
  omega

/-- Lane 0 is at the origin. -/
theorem idx_eq_zero_iff {x y : Nat} (hx : x < 5) (hy : y < 5) : (idx x y).val = 0 ↔ x = 0 ∧ y = 0 := by
  simp only [idx]
  omega

/-! ### theta, rho, chi and iota (R120, R121, R123, R124) -/

/-- The XOR of the five lanes of column x (R120). -/
def columnParity (a : Lanes) (x : Nat) : Lane :=
  a[idx x 0] ^^^ a[idx x 1] ^^^ a[idx x 2] ^^^ a[idx x 3] ^^^ a[idx x 4]

@[simp] theorem columnParity_mod (a : Lanes) (x : Nat) : columnParity a (x % 5) = columnParity a x := by
  simp [columnParity, idx_congr (Nat.mod_mod x 5) rfl]

@[simp] theorem columnParity_mod_add (a : Lanes) (x k : Nat) : columnParity a (x % 5 + k) = columnParity a (x + k) := by
  simp [columnParity]

theorem getElem_thetaC (a : Lanes) (x : Nat) (h : x < 5) : (thetaC a)[x] = columnParity a x := by
  simp [thetaC, columnParity]

/-- D[x] from the parities of its two neighbouring columns (R120). -/
theorem getElem_thetaD (a : Lanes) (x : Nat) (h : x < 5) :
    (thetaD (thetaC a))[x] = rotl (columnParity a (x + 1)) 1 ^^^ columnParity a (x + 4) := by
  simp [thetaD, getElem_thetaC, Fin.val_add]

theorem theta_at (a : Lanes) (x y : Nat) :
    (theta a)[idx x y] = a[idx x y] ^^^ (rotl (columnParity a (x + 1)) 1 ^^^ columnParity a (x + 4)) := by
  rw [Fin.getElem_fin, theta, getElem_thetaApply]
  simp [getElem_thetaD]

theorem rho_at_origin (a : Lanes) : (rho a)[idx 0 0] = a[idx 0 0] := by
  rw [Fin.getElem_fin, getElem_rho]
  exact if_pos rfl

theorem chi_at {w : Nat} (a : Vector (BitVec w) 25) (x y : Nat) :
    (chi a)[idx x y] = a[idx x y] ^^^ (~~~ a[idx (x + 1) y] &&& a[idx (x + 2) y]) := by
  rw [Fin.getElem_fin, getElem_chi]
  simp

theorem iota_at (a : Lanes) {x y : Nat} (hx : x < 5) (hy : y < 5) (r : Nat) :
    (iota a r)[idx x y] = if x = 0 ∧ y = 0 then a[idx x y] ^^^ rc r else a[idx x y] := by
  rw [Fin.getElem_fin, iota, getElem_xorLane0, if_congr (idx_eq_zero_iff hx hy) rfl rfl]
  rfl

/-- Settles O41: each step at the position (x, y). -/
theorem roundStepsAtEveryPosition : Obligations.RoundStepsAtEveryPosition := fun a x y hx hy =>
  ⟨theta_at a x y, getElem_rho a _ (idx x y).isLt, rhoOffset_lt _ (idx x y).isLt, rho_at_origin a, chi_at a x y,
    iota_at a hx hy⟩

/-! ### pi (R122) -/

/-- The gather takes from (x, y) what it writes to (y, 2x + 3y). -/
theorem piSrc_target (x y : Nat) : piSrc (idx y (2 * x + 3 * y)) = idx x y := by
  rw [piSrc, idx_mod, idx_div]
  exact idx_congr (by omega) (Nat.mod_mod y 5)

/-- What the gather writes to j = (x', y') it takes from (x, y) = (x' + 3y', x'), and j is (y, 2x + 3y). -/
theorem target_piSrc (j : Fin 25) :
    idx ((piSrc j).val / 5) (2 * ((piSrc j).val % 5) + 3 * ((piSrc j).val / 5)) = j := by
  rw [piSrc, idx_mod, idx_div]
  refine (idx_congr ?_ ?_).trans (idx_mod_div j) <;> omega

/-- A fixed position (x', y') has x' = x' + 3y' and y' = x' modulo 5, so both are 0. -/
theorem piSrc_eq_self_iff (j : Fin 25) : piSrc j = j ↔ j = 0 := by
  refine ⟨fun h => ?_, fun h => h ▸ rfl⟩
  have hcolumn : (j.val % 5 + 3 * (j.val / 5)) % 5 = j.val % 5 := (idx_mod _ _).symm.trans (congrArg (·.val % 5) h)
  have hrow : j.val % 5 % 5 = j.val / 5 := (idx_div _ _).symm.trans (congrArg (·.val / 5) h)
  omega

/-- Settles O42: the gather and the move are inverse to each other. -/
theorem piMovesEveryLane : Obligations.PiMovesEveryLane := by
  refine ⟨fun a x y _ _ => ?_, fun j => ?_, piSrc_eq_self_iff, by decide⟩
  · exact (getElem_pi a _ _).trans (congrArg (fun j : Fin 25 => a[j]) (piSrc_target x y))
  · exact ⟨(piSrc j).val % 5, Nat.mod_lt _ (by decide), (piSrc j).val / 5, by omega, target_piSrc j⟩

/-! ### PERM (R128) -/

/-- Settles O21: PERM takes and gives no byte, and its effect on A is Keccak-f. -/
theorem permAppliesKeccakF : Obligations.PermAppliesKeccakF := by
  intro s hinit hh
  have hc : check .perm s.init = .none := by rw [hinit]; rfl
  have hexec := (exec_eq_perform .perm s).trans (perform_done hh hc (Nat.zero_le _))
  refine ⟨_, hexec, State.finished_drain .perm s, ?_⟩
  simp [effectOf, permEffect]

end Sys2Proof.Machine
end

/-! # The byte and bit views of the lanes (00_scope.md R13, 20_memory.md R51, R52, 42_state_access.md R141 to R145)

What each operation on lanes does to each of the 200 state bytes, or to each of the 1600 state bits. -/
section

namespace Sys2Proof.Machine

variable {v : Lane} {a : Lanes} {lane off len n j k : Nat} {data : List Byte}

/-! ### Bytes of one lane (R13) -/

/-- The bits of a byte of a lane, read by index. -/
@[simp] theorem getElem_byteOf (v : Lane) (k j : Nat) (h : j < 8) : (byteOf v k)[j] = v.getLsbD (8 * k + j) := by
  rw [← BitVec.getLsbD_eq_getElem, getLsbD_byteOf]
  simp [h]

/-- Bytes XOR one by one. -/
@[simp] theorem byteOf_xor (v w : Lane) (k : Nat) : byteOf (v ^^^ w) k = byteOf v k ^^^ byteOf w k :=
  BitVec.eq_of_getLsbD_eq fun j hj => by simp [hj]

/-- A byte moved to byte `off` of a lane is there alone. -/
theorem byteOf_setWidth_shiftLeft (d : Byte) (off : Nat) (hk : k < 8) :
    byteOf (d.setWidth 64 <<< (8 * off)) k = if k = off then d else 0 := by
  refine BitVec.eq_of_getLsbD_eq fun j hj => ?_
  rcases Nat.lt_trichotomy k off with h | rfl | h
  · have hbelow : 8 * k + j < 8 * off := by omega
    simp [hbelow, Nat.ne_of_lt h]
  · have hbit : 8 * k + j < 64 := by omega
    simp [hj, hbit]
  · have habove : 8 ≤ 8 * k + j - 8 * off := by omega
    simp [Nat.ne_of_gt h, BitVec.getLsbD_of_ge d _ habove]

/-- The loop of XORB at each byte of the lane: the bytes of the list run out at the end of their range (R141). -/
theorem byteOf_xorBytes (v : Lane) (off : Nat) (data : List Byte) (hk : k < 8) :
    byteOf (xorBytes v off data) k = if off ≤ k then byteOf v k ^^^ data.getD (k - off) 0 else byteOf v k := by
  induction data generalizing v off with
  | nil => simp [xorBytes]
  | cons d ds ih =>
    rw [xorBytes, ih, byteOf_xor, byteOf_setWidth_shiftLeft d off hk]
    rcases Nat.lt_trichotomy k off with h | rfl | h
    · simp [Nat.not_le.mpr h, Nat.not_le.mpr (Nat.lt_succ_of_lt h), Nat.ne_of_lt h]
    · simp
    · have hsucc : k - off = k - (off + 1) + 1 := by omega
      rw [if_neg (Nat.ne_of_gt h), if_pos (Nat.succ_le_of_lt h), if_pos (Nat.le_of_lt h), hsucc, List.getD_cons_succ]
      simp

/-- `LE64` puts byte `k` of the list at byte `k` of the lane (R13). -/
theorem byteOf_le64 (data : List Byte) (hk : k < 8) : byteOf (le64 data) k = data.getD k 0 := by
  induction data generalizing k with
  | nil => simp [le64, byteOf]
  | cons b bs ih =>
    refine BitVec.eq_of_getLsbD_eq fun j hj => ?_
    cases k with
    | zero => simp [le64, hj, Nat.lt_of_lt_of_le hj]
    | succ k =>
      have hin : 8 * (k + 1) + j < 64 := by omega
      have hbelow : 8 * k + j < 64 := by omega
      have hpast : ¬8 * (k + 1) + j < 8 := by omega
      have hsub : 8 * (k + 1) + j - 8 = 8 * k + j := by omega
      rw [List.getD_cons_succ, ← ih (Nat.lt_of_succ_lt hk)]
      simp [le64, hj, hin, hbelow, hpast, hsub, BitVec.getLsbD_of_ge b _ (Nat.le_of_not_lt hpast)]

/-! ### State bytes and state bits (R51, R52) -/

/-- Inside the lane file, a state byte is a byte of its lane. -/
theorem stateByte_eq (a : Lanes) (hj : j < 200) :
    stateByte a j = byteOf (a[j / 8]'(Nat.div_lt_of_lt_mul hj)) (j % 8) := by
  rw [stateByte, laneAt_of_lt]

/-- The first `n` bytes of a list are those of the list. -/
theorem getD_take (data : List Byte) (h : k < n) : (data.take n).getD k 0 = data.getD k 0 := by
  simp [List.getD_eq_getElem?_getD, h]

/-- Replacing a lane replaces its eight state bytes. -/
theorem stateByte_setLane (a : Lanes) (lane : Nat) (v : Lane) (hj : j < 200) :
    stateByte (setLane a lane v) j = if j / 8 = lane then byteOf v (j % 8) else stateByte a j := by
  rw [stateByte_eq _ hj, stateByte_eq _ hj, getElem_setLane]
  split <;> rfl

/-- XORing bytes into one lane, at each of the 200 state bytes (R141). -/
theorem stateByte_xorBytesInLane (a : Lanes) (hfit : off + data.length ≤ 8) (hj : j < 200) :
    stateByte (xorBytesInLane a lane off data) j =
      if 8 * lane + off ≤ j ∧ j < 8 * lane + off + data.length
      then stateByte a j ^^^ data.getD (j - (8 * lane + off)) 0 else stateByte a j := by
  rw [xorBytesInLane, stateByte_setLane a lane _ hj]
  by_cases hlane : j / 8 = lane
  · subst hlane
    have hsub : j - (8 * (j / 8) + off) = j % 8 - off := by omega
    rw [if_pos rfl, byteOf_xorBytes _ _ _ (Nat.mod_lt j (by decide)), ← stateByte, hsub]
    by_cases hlow : off ≤ j % 8
    · by_cases hhigh : j % 8 < off + data.length
      · rw [if_pos hlow, if_pos (by omega)]
      · rw [if_pos hlow, if_neg (by omega), List.getD_eq_default _ _ (by omega)]
        exact BitVec.xor_zero
    · rw [if_neg hlow, if_neg (by omega)]
  · rw [if_neg hlane, if_neg (by omega)]

/-- XORing whole lanes in, at each of the 200 state bytes (R142, R85). -/
theorem stateByte_xorLanes (a : Lanes) (n : Nat) (data : List Byte) (hj : j < 200) :
    stateByte (xorLanes a n data) j = if j < 8 * n then stateByte a j ^^^ data.getD j 0 else stateByte a j := by
  have hmod : j % 8 < 8 := Nat.mod_lt j (by decide)
  have hdata : ((data.drop (8 * (j / 8))).take 8).getD (j % 8) 0 = data.getD j 0 := by
    rw [getD_take _ hmod]
    simp [List.getD_eq_getElem?_getD, Nat.div_add_mod]
  rw [stateByte_eq _ hj, stateByte_eq _ hj, getElem_xorLanes]
  by_cases hlow : j < 8 * n
  · rw [if_pos hlow, if_pos (Nat.div_lt_of_lt_mul hlow), byteOf_xor, byteOf_le64 _ hmod, hdata]
  · rw [if_neg hlow, if_neg (by omega)]

/-- XORing in the first `len` of the bytes offered, when so many are offered. -/
theorem stateByte_xorBytesInLane_take (a : Lanes) (hfit : off + len ≤ 8) (hn : len ≤ data.length) (hj : j < 200) :
    stateByte (xorBytesInLane a lane off ((data.take len).take len)) j =
      if 8 * lane + off ≤ j ∧ j < 8 * lane + off + len
      then stateByte a j ^^^ data.getD (j - (8 * lane + off)) 0 else stateByte a j := by
  have hlen : (data.take len).length = len := List.length_take_of_le hn
  rw [List.take_take, Nat.min_self, stateByte_xorBytesInLane a (hlen.symm ▸ hfit) hj, hlen]
  refine ite_congr rfl (fun hin => ?_) fun _ => rfl
  rw [getD_take _ (by omega)]

/-- XORing in the first `8n` of the bytes offered. -/
theorem stateByte_xorLanes_take (a : Lanes) (n : Nat) (data : List Byte) (hj : j < 200) :
    stateByte (xorLanes a n (data.take (8 * n))) j =
      if j < 8 * n then stateByte a j ^^^ data.getD j 0 else stateByte a j := by
  rw [stateByte_xorLanes a n _ hj]
  refine ite_congr rfl (fun hin => ?_) fun _ => rfl
  rw [getD_take _ hin]

/-- The state bytes of a state whose lanes are all zero. -/
theorem stateByte_of_zero (hzero : ∀ l < 25, laneAt a l = 0) (hj : j < 200) : stateByte a j = 0 := by
  rw [stateByte, hzero _ (by omega)]
  simp [byteOf]

/-- Flipping a state bit is XORing one bit into its lane (R143, R52). -/
theorem complementBit_eq (a : Lanes) (p : Nat) :
    complementBit a p = setLane a (p / 64) (laneAt a (p / 64) ^^^ BitVec.twoPow 64 (p % 64)) := rfl

/-- A flipped bit, among all 1600 (R143, R52). -/
theorem stateBit_complementBit (a : Lanes) (p : Nat) {q : Nat} (hq : q < 1600) :
    stateBit (complementBit a p) q = if q = p then !stateBit a q else stateBit a q := by
  have hlane : q / 64 < 25 := Nat.div_lt_of_lt_mul hq
  have hbit : p % 64 < 64 := Nat.mod_lt p (by decide)
  rw [stateBit, stateBit, laneAt_of_lt _ hlane, laneAt_of_lt _ hlane, complementBit_eq, getElem_setLane]
  by_cases hl : q / 64 = p / 64
  · have hiff : p % 64 = q % 64 ↔ q = p := by omega
    rw [if_pos hl, ← hl, laneAt_of_lt _ hlane, BitVec.getLsbD_xor, BitVec.getLsbD_twoPow]
    by_cases hqp : q = p <;> simp [hbit, hiff, hqp]
  · have hqp : q ≠ p := fun h => hl (by rw [h])
    rw [if_neg hl, if_neg hqp]

/-- A bit of a lane is a bit of the byte that holds it (R51, R52). -/
theorem twoPow_eq_byte (p : Nat) :
    BitVec.twoPow 64 (p % 64) = (BitVec.twoPow 8 (p % 8)).setWidth 64 <<< (8 * (p % 64 / 8)) := by
  refine BitVec.eq_of_getLsbD_eq fun j hj => ?_
  rw [BitVec.getLsbD_twoPow, BitVec.getLsbD_shiftLeft, BitVec.getLsbD_setWidth, BitVec.getLsbD_twoPow, Bool.eq_iff_iff]
  simp only [Bool.and_eq_true, Bool.not_eq_true', decide_eq_true_eq, decide_eq_false_iff_not]
  omega

/-- Flipping a state bit is XORing the one byte with that bit into the state (R143's corner case). -/
theorem complementBit_eq_xorBytesInLane (a : Lanes) (p : Nat) :
    complementBit a p = xorBytesInLane a (p / 64) (p % 64 / 8) [BitVec.twoPow 8 (p % 8)] := by
  rw [complementBit_eq, twoPow_eq_byte]
  rfl

/-- Flipping a state bit leaves every state byte but the one that holds it (R51, R52). -/
theorem stateByte_complementBit (a : Lanes) {p : Nat} (hj : j < 200) (hne : j ≠ p / 8) :
    stateByte (complementBit a p) j = stateByte a j := by
  have hfit : p % 64 / 8 + [BitVec.twoPow 8 (p % 8)].length ≤ 8 := by
    rw [List.length_singleton]; omega
  rw [complementBit_eq_xorBytesInLane, stateByte_xorBytesInLane a hfit hj, List.length_singleton, if_neg (by omega)]

/-- Bytes of one lane are state bytes, while they stay in the lane (R86). -/
theorem bytesOf_laneAt (a : Lanes) (lane : Nat) (hfit : off + len ≤ 8) :
    bytesOf (laneAt a lane) off len = (List.range len).map fun k => stateByte a (8 * lane + off + k) := by
  refine List.map_congr_left fun k hk => ?_
  have hk : k < len := List.mem_range.mp hk
  rw [stateByte, show (8 * lane + off + k) / 8 = lane by omega, show (8 * lane + off + k) % 8 = off + k by omega]

/-- The bytes of the leading lanes are the leading state bytes, in order (R145, R86). -/
theorem extractLanes_eq (a : Lanes) (n : Nat) : extractLanes a n = (List.range (8 * n)).map (stateByte a) := by
  induction n with
  | zero => rfl
  | succ n ih =>
    have hlast : bytesOf (laneAt a n) 0 8 = (List.range 8).map fun k => stateByte a (8 * n + k) :=
      bytesOf_laneAt a n (Nat.le_refl 8)
    rw [extractLanes, List.range_succ, List.flatMap_append, ← extractLanes, ih, Nat.mul_succ, List.range_add,
      List.map_append, List.map_map, List.flatMap_singleton, hlast]
    rfl

end Sys2Proof.Machine
end

/-! # What a command can do and what it keeps (30_encoding.md R72, R84, 60_exceptions.md R212, R213)

When a command is performed whole, and its frame over every next state it can answer. -/
section

namespace Sys2Proof.Machine

variable {i : Instr} {s t : State}

/-! ### Commands that complete -/

/-- A command that passes its check and has its DIN bytes offered is performed whole, with the effect of its rule. -/
theorem exec_done (hh : s.halted = false) (hc : check i s.init = .none) (hn : nin i ≤ s.dinIn.length) :
    exec i s = .next (effectOf i (s.begin (encode i) (nin i))).drain :=
  (exec_eq_perform i s).trans (perform_done hh hc hn)

/-- With INIT = 1 the check of a command is that of its ranges (R212). -/
theorem check_of_init (hr : rangeCheck i = .none) (hi : s.init = true) : check i s.init = .none := by
  simp [check, hr, hi]

/-- The ranges of XORB (R212). -/
theorem rangeCheck_xorb_iff {lane off len : Nat} :
    rangeCheck (.xorb lane off len) = .none ↔ lane ≤ 24 ∧ off + len ≤ 8 := by
  rw [rangeCheck]
  split_ifs <;> simp <;> omega

/-- The ranges of EXTB, which are those of XORB (R212). -/
theorem rangeCheck_extb_iff {lane off len : Nat} :
    rangeCheck (.extb lane off len) = .none ↔ lane ≤ 24 ∧ off + len ≤ 8 := rangeCheck_xorb_iff

/-- The range of XORL (R212). -/
theorem rangeCheck_xorl_iff {n : Nat} : rangeCheck (.xorl n) = .none ↔ n ≤ 25 := by
  simp [rangeCheck]

/-- The range of EXTL (R212). -/
theorem rangeCheck_extl_iff {n : Nat} : rangeCheck (.extl n) = .none ↔ n ≤ 25 := by
  simp [rangeCheck]

/-- The range of CBIT (R212). -/
theorem rangeCheck_cbit_iff {p : Nat} : rangeCheck (.cbit p) = .none ↔ p ≤ 1599 := by
  simp [rangeCheck]

/-- The ranges of XPE (R212). -/
theorem rangeCheck_xpe_iff {n m : Nat} : rangeCheck (.xpe n m) = .none ↔ n ≤ 25 ∧ m ≤ 25 := by
  simp [rangeCheck]

/-- A block that has finished a command is not halted, if it was not before. -/
theorem State.Finished.halted (h : State.Finished i s t) (hh : s.halted = false) : t.halted = false :=
  State.halted_eq_false (h.err.trans (s.err_eq_false hh)) (by simp [h.phase])

/-! ### Frames -/

/-- Everything a command can do: it is performed whole with the effect of its rule, or waits, or is rejected. -/
theorem exec_cases (h : exec i s = .next t) :
    s.halted = false ∧
      ((check i s.init = .none ∧ nin i ≤ s.dinIn.length ∧
          t = (effectOf i (s.begin (encode i) (nin i))).drain) ∨
        (check i s.init = .none ∧ s.dinIn.length < nin i ∧ t = s.awaitDin (encode i)) ∨
        (check i s.init ≠ .none ∧ t = s.raiseError (check i s.init) (encode i))) :=
  perform_cases ((exec_eq_perform i s).symm.trans h)

/-- The lanes a command leaves are those its effect leaves, when it is performed, or the lanes there were. -/
theorem exec_lanes (h : exec i s = .next t) :
    t.lanes = s.lanes ∨ (check i s.init = .none ∧ nin i ≤ s.dinIn.length ∧
      t.lanes = (effectOf i (s.begin (encode i) (nin i))).lanes) := by
  obtain ⟨-, ⟨hc, hn, rfl⟩ | ⟨-, -, rfl⟩ | ⟨-, rfl⟩⟩ := exec_cases h
  · exact .inr ⟨hc, hn, rfl⟩
  · exact .inl rfl
  · exact .inl rfl

/-- No command touches the words the host offers or the model's count of reset edges. -/
theorem exec_keeps_queue (h : exec i s = .next t) : t.cmdIn = s.cmdIn ∧ t.draws = s.draws := by
  obtain ⟨-, ⟨-, -, rfl⟩ | ⟨-, -, rfl⟩ | ⟨-, rfl⟩⟩ := exec_cases h
  · simp [effectOf_keeps]
  · simp
  · simp

/-- A command that takes no DIN byte leaves those the host offers (R84). -/
theorem exec_keeps_dinIn (hi : nin i = 0) (h : exec i s = .next t) : t.dinIn = s.dinIn := by
  obtain ⟨-, ⟨-, -, rfl⟩ | ⟨-, hn, -⟩ | ⟨-, rfl⟩⟩ := exec_cases h
  · simp [effectOf_keeps, hi]
  · simp [hi] at hn
  · simp

/-- A command that gives no DOUT byte leaves those the host has taken (R84). -/
theorem exec_keeps_doutOut (hi : nout i = 0) (h : exec i s = .next t) : t.doutOut = s.doutOut := by
  obtain ⟨out, hlen, hout⟩ := effectOf_doutPend i (s.begin (encode i) (nin i))
  obtain rfl : out = [] := List.length_eq_zero_iff.mp (hlen.trans hi)
  obtain ⟨-, ⟨-, -, rfl⟩ | ⟨-, -, rfl⟩ | ⟨-, rfl⟩⟩ := exec_cases h
  · simp [effectOf_keeps, hout]
  · simp
  · simp

/-- The effect of a command that does not permute leaves the working registers (R34). -/
theorem effectOf_engine (hi : permInput s i = none) : (effectOf i s).engine = s.engine := by
  cases i with
  | perm | xpe => cases hi
  | sinit | xorb | xorl | cbit => simp [effectOf, sinitEffect, xorbEffect, xorlEffect, cbitEffect]
  | cinit | rdrc | rdrho => simp [effectOf, cinitEffect, rdrcEffect, rdrhoEffect]
  | extb | extl => simp [effectOf, extbEffect, extlEffect]

/-- A command that does not permute leaves the working registers, whatever next state it answers. -/
theorem exec_keeps_engine (hi : ∀ u, permInput u i = none) (h : exec i s = .next t) : t.engine = s.engine := by
  obtain ⟨-, ⟨-, -, rfl⟩ | ⟨-, -, rfl⟩ | ⟨-, rfl⟩⟩ := exec_cases h
  · simp [effectOf_engine (hi _)]
  · simp
  · simp

/-- A command that answers a state with an error recorded has left the lanes: it was rejected (R213). -/
theorem exec_lanes_of_err (h : exec i s = .next t) (he : t.err = true) : t.lanes = s.lanes := by
  obtain ⟨hh, ⟨-, -, rfl⟩ | ⟨-, -, rfl⟩ | ⟨-, rfl⟩⟩ := exec_cases h
  · simp [effectOf_keeps, s.err_eq_false hh] at he
  · rfl
  · rfl

end Sys2Proof.Machine
end

/-! # The commands that access the state (42_state_access.md R140 to R150) -/
section

namespace Sys2Proof.Machine

/-! ### SINIT, XORB, XORL and CBIT (R140 to R143) -/

/-- Settles O17: SINIT has no check to fail and takes no byte, and its effect is the zero state. -/
theorem sinitClearsTheState : Obligations.SinitClearsTheState := by
  intro s hh
  have hexec := exec_done hh (check_sinit s.init) (Nat.zero_le _)
  refine ⟨_, hexec, State.finished_drain _ s, fun l hl => ?_, rfl, exec_keeps_engine (fun _ => rfl) hexec,
    exec_keeps_doutOut rfl hexec⟩
  exact (laneAt_of_lt zeroLanes hl).trans (getElem_zeroLanes l hl)

/-- Settles O18: the effect of XORB, byte by byte, on the bytes it took. -/
theorem xorbXorsTheNamedBytes : Obligations.XorbXorsTheNamedBytes := by
  intro lane off len s hlane hfit hinit hh hn
  have hexec := exec_done hh (check_of_init (rangeCheck_xorb_iff.mpr ⟨hlane, hfit⟩) hinit) hn
  exact ⟨_, hexec, State.finished_drain _ s, fun j hj => stateByte_xorBytesInLane_take s.lanes hfit hn hj,
    exec_keeps_init (by simp) hexec, exec_keeps_engine (fun _ => rfl) hexec, exec_keeps_doutOut rfl hexec⟩

/-- Settles O19: the effect of XORL, byte by byte, on the bytes it took. -/
theorem xorlXorsTheLeadingBytes : Obligations.XorlXorsTheLeadingBytes := by
  intro n s hle hinit hh hn
  have hexec := exec_done hh (check_of_init (rangeCheck_xorl_iff.mpr hle) hinit) hn
  exact ⟨_, hexec, State.finished_drain _ s, fun j hj => stateByte_xorLanes_take s.lanes n s.dinIn hj,
    exec_keeps_init (by simp) hexec, exec_keeps_engine (fun _ => rfl) hexec, exec_keeps_doutOut rfl hexec⟩

/-- Settles O20: the effect of CBIT, bit by bit. -/
theorem cbitFlipsOneBit : Obligations.CbitFlipsOneBit := by
  intro p s hle hinit hh
  have hexec := exec_done hh (check_of_init (rangeCheck_cbit_iff.mpr hle) hinit) (Nat.zero_le _)
  exact ⟨_, hexec, State.finished_drain _ s, fun q hq => stateBit_complementBit s.lanes p hq,
    exec_keeps_init (by simp) hexec, exec_keeps_engine (fun _ => rfl) hexec, exec_keeps_doutOut rfl hexec⟩

/-- Settles O30: both commands complete, and flipping a bit is XORing in the byte with that bit. -/
theorem cbitIsXorbOfOneByte : Obligations.CbitIsXorbOfOneByte := by
  intro p s rest hle hinit hh hdin
  have hrange : rangeCheck (.xorb (p / 64) (p % 64 / 8) 1) = .none := rangeCheck_xorb_iff.mpr (by omega)
  have hn : nin (.xorb (p / 64) (p % 64 / 8) 1) ≤ s.dinIn.length := by simp [hdin, nin]
  refine ⟨_, _, exec_done hh (check_of_init (rangeCheck_cbit_iff.mpr hle) hinit) (Nat.zero_le _),
    exec_done hh (check_of_init hrange hinit) hn, ?_⟩
  have htaken : (s.dinIn.take 1).take 1 = [BitVec.twoPow 8 (p % 8)] := by
    rw [hdin]; rfl
  exact (complementBit_eq_xorBytesInLane s.lanes p).trans (congrArg _ htaken.symm)

/-! ### EXTB and EXTL (R144, R145, R148) -/

/-- Settles O22: EXTB's whole effect is the bytes of one lane, which are state bytes. -/
theorem extbGivesTheNamedBytes : Obligations.ExtbGivesTheNamedBytes := by
  intro lane off len s hlane hfit hinit hh
  rw [← bytesOf_laneAt s.lanes lane hfit]
  exact exec_of_doutWrite hh (check_of_init (rangeCheck_extb_iff.mpr ⟨hlane, hfit⟩) hinit) rfl rfl

/-- Settles O23: EXTL's whole effect is the bytes of the leading lanes, which are the leading state bytes. -/
theorem extlGivesTheLeadingBytes : Obligations.ExtlGivesTheLeadingBytes := by
  intro n s hle hinit hh
  rw [← extractLanes_eq]
  exact exec_of_doutWrite hh (check_of_init (rangeCheck_extl_iff.mpr hle) hinit) rfl rfl

/-- The bytes an extraction gives depend on the lanes alone, and giving them is its whole effect (R148). -/
theorem extraction_reads_lanes {i : Instr} (hi : (∃ n, i = .extl n) ∨ ∃ l o n, i = .extb l o n) :
    nin i = 0 ∧ ∃ bytes : Lanes → List Byte, ∀ s, effectOf i s = s.doutWrite (bytes s.lanes) := by
  obtain ⟨n, rfl⟩ | ⟨l, o, n, rfl⟩ := hi
  · exact ⟨rfl, fun a => extractLanes a n, fun _ => rfl⟩
  · exact ⟨rfl, fun a => bytesOf (laneAt a l) o n, fun _ => rfl⟩

/-- An extraction leaves the lanes, whatever next state it answers (R148). -/
theorem extraction_keeps_lanes {i : Instr} {s t : State} (hi : (∃ n, i = .extl n) ∨ ∃ l o n, i = .extb l o n)
    (h : exec i s = .next t) : t.lanes = s.lanes := by
  obtain ⟨-, bytes, heffect⟩ := extraction_reads_lanes hi
  obtain hkept | ⟨-, -, hlanes⟩ := exec_lanes h
  · exact hkept
  · rw [hlanes, heffect]; rfl

/-- Settles O29: the lanes are kept, R is their encoding, and the bytes given depend on the lanes alone. -/
theorem extractionChangesNothing : Obligations.ExtractionChangesNothing := by
  refine ⟨fun l o n s t h => ?_, fun n s t h => ?_, fun i s hi hh hc => ?_⟩
  · have hlanes := extraction_keeps_lanes (.inr ⟨l, o, n, rfl⟩) h
    exact ⟨hlanes, congrArg (enc Config.build) hlanes⟩
  · have hlanes := extraction_keeps_lanes (.inl ⟨n, rfl⟩) h
    exact ⟨hlanes, congrArg (enc Config.build) hlanes⟩
  · obtain ⟨hn, bytes, heffect⟩ := extraction_reads_lanes hi
    obtain ⟨t, ht, hfin, htout, htlanes, htinit, -⟩ := exec_of_doutWrite hh hc hn (heffect _)
    obtain ⟨u, hu, -, huout, -⟩ := exec_of_doutWrite (hfin.halted hh) (htinit ▸ hc) hn (heffect _)
    refine ⟨t, u, _, ht, hu, htout, huout.trans ?_⟩
    simp [htlanes]

/-! ### XPE (R146) -/

/-- Settles O24: XPE's effect permutes what XORL would leave and gives the leading bytes of the result. -/
theorem xpeXorsPermutesExtracts : Obligations.XpeXorsPermutesExtracts := by
  intro n m s hle hle' hinit hh hn
  have hexec := exec_done hh (check_of_init (rangeCheck_xpe_iff.mpr ⟨hle, hle'⟩) hinit) hn
  refine ⟨_, xorLanes s.lanes n (s.dinIn.take (8 * n)), hexec, State.finished_drain _ s, fun j hj => ?_, rfl, ?_,
    exec_keeps_init (by simp) hexec⟩
  · exact stateByte_xorLanes_take s.lanes n s.dinIn hj
  · rw [← extractLanes_eq]
    rfl

/-- The effect of XPE is that of XORL, then of PERM, then of EXTL (R146). -/
theorem xpeEffect_eq (n m : Nat) (s : State) :
    xpeEffect n m s = extlEffect m (permEffect (xorlEffect n s)) := by
  simp only [xpeEffect, extlEffect, permEffect, xorlEffect, permuteFrom]

/-- Settles O27: each of the three commands is performed whole, and the effects of the three in turn are that of XPE; what
the commands do between the effects is seen in the latched word alone. -/
theorem xpeEqualsTheThreeCommands : Obligations.XpeEqualsTheThreeCommands := by
  intro n m s hle hle' hinit hh hn
  have hxorl := exec_done hh (check_of_init (rangeCheck_xorl_iff.mpr hle) hinit) hn
  have hainit := (exec_keeps_init (by simp) hxorl).trans hinit
  have hah := (State.finished_drain (.xorl n) s).halted hh
  have hperm := exec_done hah (check_of_init (i := .perm) rfl hainit) (Nat.zero_le _)
  have hbinit := (exec_keeps_init (by simp) hperm).trans hainit
  have hbh := (State.finished_drain .perm _).halted hah
  have hextl := exec_done hbh (check_of_init (rangeCheck_extl_iff.mpr hle') hbinit) (Nat.zero_le _)
  have hxpe := exec_done hh (check_of_init (rangeCheck_xpe_iff.mpr ⟨hle, hle'⟩) hinit) hn
  refine ⟨_, _, _, hxorl, hperm, hextl, hxpe.trans (congrArg Host.Outcome.next ?_)⟩
  simp [effectOf, xpeEffect_eq, xorlEffect, permEffect, extlEffect, permuteFrom, State.drain, State.retire, State.begin,
    State.doutWrite, nin]

/-! ### The round trips (R150) -/

/-- A list is the list of its elements by position. -/
theorem map_range_eq_of_getD {data : List Byte} {f : Nat → Byte} (h : ∀ k < data.length, f k = data.getD k 0) :
    (List.range data.length).map f = data := by
  refine List.ext_getElem (by simp) fun k _ hk => ?_
  rw [List.getElem_map, List.getElem_range, h k hk, List.getD_eq_getElem _ _ hk]

/-- Settles O28: on the zero state that SINIT leaves, the bytes XORed in are the state bytes, and these are given. -/
theorem xorThenExtractGivesTheData : Obligations.XorThenExtractGivesTheData := by
  refine ⟨fun n s data rest hle hh hlen hs => ?_, fun lane off s data rest hlane hfit hh hs => ?_⟩
  all_goals
    obtain ⟨a, ha, hfa, hzero, hinit, -, haout⟩ := sinitClearsTheState s hh
    have hdin : a.dinIn = data ++ rest := hfa.dinIn.trans hs
    have hha := hfa.halted hh
  · obtain ⟨b, hb, hfb, hbytes, hbinit, -, hbout⟩ :=
      xorlXorsTheLeadingBytes n a hle hinit hha (by simp [hdin, hlen])
    obtain ⟨c, hc, hfc, hcout, -⟩ := extlGivesTheLeadingBytes n b hle (hbinit.trans hinit) (hfb.halted hha)
    refine ⟨a, b, c, ha, hb, hc, ?_, ?_⟩
    · rw [hcout, hbout, haout, ← hlen, map_range_eq_of_getD fun k hk => ?_]
      rw [hbytes k (by omega), stateByte_of_zero hzero (by omega), if_pos (by omega), hdin,
        List.getD_append _ _ _ _ hk]
      exact BitVec.zero_xor
    · simp [hfc.dinIn, hfb.dinIn, hdin, nin, hlen]
  · obtain ⟨b, hb, hfb, hbytes, hbinit, -, hbout⟩ :=
      xorbXorsTheNamedBytes lane off data.length a hlane hfit hinit hha (by simp [hdin])
    obtain ⟨c, hc, hfc, hcout, -⟩ :=
      extbGivesTheNamedBytes lane off data.length b hlane hfit (hbinit.trans hinit) (hfb.halted hha)
    refine ⟨a, b, c, ha, hb, hc, ?_, ?_⟩
    · rw [hcout, hbout, haout, map_range_eq_of_getD fun k hk => ?_]
      rw [hbytes _ (by omega), stateByte_of_zero hzero (by omega), if_pos (by omega), hdin, Nat.add_sub_cancel_left,
        List.getD_append _ _ _ _ hk]
      exact BitVec.zero_xor
    · simp [hfc.dinIn, hfb.dinIn, hdin, nin]

/-! ### Frames -/

/-- Settles O32: what the three commands keep they share with others, and a command that is performed stores to the bytes
of its effect alone. -/
theorem frameOfXorCommands : Obligations.FrameOfXorCommands := by
  refine ⟨fun lane off len s t h => ?_, fun n s t h => ?_, fun p s t h => ?_⟩
  all_goals
    obtain ⟨hcmd, hdraws⟩ := exec_keeps_queue h
    have hengine := exec_keeps_engine (fun _ => rfl) h
    have hdout := exec_keeps_doutOut rfl h
    have hinit := exec_keeps_init (by simp) h
  · refine ⟨fun j hj hout => ?_, hinit, hengine, hdout, hcmd, hdraws⟩
    obtain hkept | ⟨hc, hn, hlanes⟩ := exec_lanes h
    · rw [hkept]
    · have hfit := (rangeCheck_xorb_iff.mp (rangeCheck_of_check hc)).2
      rw [hlanes]
      exact (stateByte_xorBytesInLane_take s.lanes hfit hn hj).trans (if_neg hout)
  · refine ⟨fun j hj hout => ?_, hinit, hengine, hdout, hcmd, hdraws⟩
    obtain hkept | ⟨-, -, hlanes⟩ := exec_lanes h
    · rw [hkept]
    · rw [hlanes]
      exact (stateByte_xorLanes_take s.lanes n s.dinIn hj).trans (if_neg (Nat.not_lt.mpr hout))
  · refine ⟨fun j hj hout => ?_, hinit, hengine, hdout, exec_keeps_dinIn rfl h, hcmd, hdraws⟩
    obtain hkept | ⟨-, -, hlanes⟩ := exec_lanes h
    · rw [hkept]
    · rw [hlanes]
      exact stateByte_complementBit s.lanes hj hout

/-- Settles O33: each clause is a frame that the command shares with others. -/
theorem frameOfCommandsThatWriteEveryLane : Obligations.FrameOfCommandsThatWriteEveryLane := by
  refine ⟨fun s t h => ?_, fun s t h => ?_, fun n m s t h => ?_⟩
  · exact ⟨exec_keeps_engine (fun _ => rfl) h, exec_keeps_dinIn rfl h, exec_keeps_doutOut rfl h, exec_keeps_queue h⟩
  · exact ⟨exec_keeps_init (by simp) h, exec_keeps_dinIn rfl h, exec_keeps_doutOut rfl h, exec_keeps_queue h⟩
  · obtain ⟨hcmd, hdraws⟩ := exec_keeps_queue h
    exact ⟨exec_keeps_init (by simp) h, hcmd, hdraws, exec_lanes_of_err h⟩

end Sys2Proof.Machine
end

/-! # Interleaved lanes (43_interleave.md R170 to R177) -/
section

namespace Sys2Proof.Machine

variable (l m : Lane)

/-! ### The bits of the halves (R170, R171) -/

/-- Bit `j` of the even half is bit `2j` of the lane (R170). -/
@[simp] theorem getElem_ilvEven (j : Nat) (hj : j < 32) : (ilvEven l)[j] = l.getLsbD (2 * j) := getElem_ofBits _ _ _ _

/-- Bit `j` of the odd half is bit `2j + 1` of the lane (R170). -/
@[simp] theorem getElem_ilvOdd (j : Nat) (hj : j < 32) : (ilvOdd l)[j] = l.getLsbD (2 * j + 1) := getElem_ofBits _ _ _ _

@[simp] theorem ilv_fst : (ilv l).1 = ilvEven l := rfl

@[simp] theorem ilv_snd : (ilv l).2 = ilvOdd l := rfl

/-- Bit `2j` of a lane is bit `j` of its even half (R171). -/
theorem getLsbD_dilv_even (p : Half × Half) {j : Nat} (hj : j < 32) : (dilv p).getLsbD (2 * j) = p.1.getLsbD j := by
  have hbit : 2 * j < 64 := by omega
  simp [dilv, hbit]

/-- Bit `2j + 1` of a lane is bit `j` of its odd half (R171). -/
theorem getLsbD_dilv_odd (p : Half × Half) {j : Nat} (hj : j < 32) : (dilv p).getLsbD (2 * j + 1) = p.2.getLsbD j := by
  have hbit : 2 * j + 1 < 64 := by omega
  have hdiv : (2 * j + 1) / 2 = j := by omega
  simp [dilv, hbit, hdiv]

/-- Interleaving undoes de-interleaving (R171). -/
theorem ilv_dilv (p : Half × Half) : ilv (dilv p) = p := by
  refine Prod.ext (BitVec.eq_of_getElem_eq fun j hj => ?_) (BitVec.eq_of_getElem_eq fun j hj => ?_)
  · exact (getElem_ilvEven _ j hj).trans (getLsbD_dilv_even p hj)
  · exact (getElem_ilvOdd _ j hj).trans (getLsbD_dilv_odd p hj)

/-- Settles O44: each composite is the identity, and the bits of de-interleaving are those of the halves. -/
theorem interleavingIsABijection : Obligations.InterleavingIsABijection :=
  ⟨dilv_ilv, ilv_dilv, fun p _ hj => ⟨getLsbD_dilv_even p hj, getLsbD_dilv_odd p hj⟩⟩

/-! ### Bitwise operations (R172) -/

/-- XOR, AND, OR and NOT of lanes are those of their halves (R172). -/
@[simp] theorem ilvEven_xor : ilvEven (l ^^^ m) = ilvEven l ^^^ ilvEven m := by
  ext j hj; simp

@[simp] theorem ilvOdd_xor : ilvOdd (l ^^^ m) = ilvOdd l ^^^ ilvOdd m := by
  ext j hj; simp

@[simp] theorem ilvEven_and : ilvEven (l &&& m) = ilvEven l &&& ilvEven m := by
  ext j hj; simp

@[simp] theorem ilvOdd_and : ilvOdd (l &&& m) = ilvOdd l &&& ilvOdd m := by
  ext j hj; simp

@[simp] theorem ilvEven_or : ilvEven (l ||| m) = ilvEven l ||| ilvEven m := by
  ext j hj; simp

@[simp] theorem ilvOdd_or : ilvOdd (l ||| m) = ilvOdd l ||| ilvOdd m := by
  ext j hj; simp

@[simp] theorem ilvEven_not : ilvEven (~~~l) = ~~~ilvEven l := by
  ext j hj
  have hbit : 2 * j < 64 := by omega
  simp [hbit]

@[simp] theorem ilvOdd_not : ilvOdd (~~~l) = ~~~ilvOdd l := by
  ext j hj
  have hbit : 2 * j + 1 < 64 := by omega
  simp [hbit]

/-- Bits 4k+3..4k of the two halves are the even and the odd bits of byte k (R172). -/
theorem ilv_byteOf {k j : Nat} (hk : k < 8) (hj : j < 4) :
    (ilvEven l).getLsbD (4 * k + j) = (byteOf l k).getLsbD (2 * j) ∧
      (ilvOdd l).getLsbD (4 * k + j) = (byteOf l k).getLsbD (2 * j + 1) := by
  have hhalf : 4 * k + j < 32 := by omega
  have hlane : 2 * (4 * k + j) = 8 * k + 2 * j := by omega
  have heven : 2 * j < 8 := by omega
  have hodd : 2 * j + 1 < 8 := by omega
  simp [hhalf, hlane, heven, hodd, ← Nat.add_assoc]

/-- Settles O45: the two halves of each operation, the constants by evaluation, and the bits of each byte. -/
theorem interleavingCommutesWithBitwise : Obligations.InterleavingCommutesWithBitwise :=
  ⟨fun a b => ⟨Prod.ext (ilvEven_xor a b) (ilvOdd_xor a b), Prod.ext (ilvEven_and a b) (ilvOdd_and a b),
      Prod.ext (ilvEven_or a b) (ilvOdd_or a b), Prod.ext (ilvEven_not a) (ilvOdd_not a)⟩,
    by decide, by decide, fun l _ _ hk hj => ilv_byteOf l hk hj⟩

/-! ### Rotations and the tables (R174, R176, R177) -/

/-- A bit of a rotation, read by index, is a bit of the source. -/
theorem getElem_rotl {w : Nat} (v : BitVec w) (k : Nat) {j : Nat} (hj : j < w) :
    (rotl v k)[j] = v[(j + (w - k % w)) % w]'(Nat.mod_lt _ (Nat.zero_lt_of_lt hj)) := by
  rw [← BitVec.getLsbD_eq_getElem, rotationMovesEveryBit w v k j hj, BitVec.getLsbD_eq_getElem]

/-- An even rotation of a lane rotates each half by half the amount (R174). -/
theorem ilv_rotl_even (k : Nat) : ilv (rotl l (2 * k)) = (rotl (ilvEven l) k, rotl (ilvOdd l) k) := by
  refine Prod.ext (BitVec.eq_of_getElem_eq fun j hj => ?_) (BitVec.eq_of_getElem_eq fun j hj => ?_)
  · have hsrc : (2 * j + (64 - 2 * k % 64)) % 64 = 2 * ((j + (32 - k % 32)) % 32) := by omega
    rw [getElem_rotl, getElem_ilvEven, ← hsrc]
    exact (getElem_ilvEven _ j hj).trans (rotationMovesEveryBit _ _ _ _ (by omega))
  · have hsrc : (2 * j + 1 + (64 - 2 * k % 64)) % 64 = 2 * ((j + (32 - k % 32)) % 32) + 1 := by omega
    rw [getElem_rotl, getElem_ilvOdd, ← hsrc]
    exact (getElem_ilvOdd _ j hj).trans (rotationMovesEveryBit _ _ _ _ (by omega))

/-- An odd rotation of a lane swaps the halves: what becomes the even half has gone one place further (R174). -/
theorem ilv_rotl_odd (k : Nat) : ilv (rotl l (2 * k + 1)) = (rotl (ilvOdd l) (k + 1), rotl (ilvEven l) k) := by
  refine Prod.ext (BitVec.eq_of_getElem_eq fun j hj => ?_) (BitVec.eq_of_getElem_eq fun j hj => ?_)
  · have hsrc : (2 * j + (64 - (2 * k + 1) % 64)) % 64 = 2 * ((j + (32 - (k + 1) % 32)) % 32) + 1 := by omega
    rw [getElem_rotl, getElem_ilvOdd, ← hsrc]
    exact (getElem_ilvEven _ j hj).trans (rotationMovesEveryBit _ _ _ _ (by omega))
  · have hsrc : (2 * j + 1 + (64 - (2 * k + 1) % 64)) % 64 = 2 * ((j + (32 - k % 32)) % 32) := by omega
    rw [getElem_rotl, getElem_ilvEven, ← hsrc]
    exact (getElem_ilvOdd _ j hj).trans (rotationMovesEveryBit _ _ _ _ (by omega))

/-- The rotation on the halves is the interleaved rotation, by any amount (R174). -/
theorem ilv_rotl (k : Nat) : ilv (rotl l k) = ilvRotl (ilv l) k := by
  obtain ⟨n, rfl | rfl⟩ := Nat.even_or_odd' k
  · rw [ilv_rotl_even]
    simp [ilvRotl]
  · have hup : (2 * n + 1 + 1) / 2 = n + 1 := by omega
    rw [ilv_rotl_odd]
    simp [ilvRotl, hup]

/-- Settles O46: de-interleaving the interleaved rotation gives the rotation. -/
theorem halvesRotateAsTheLane : Obligations.HalvesRotateAsTheLane :=
  ⟨fun _ _ _ => rfl, fun l k _ => by rw [← ilv_rotl, dilv_ilv]⟩

/-- The table of R176 holds the interleaved round constants. -/
theorem rci_eq_ilv_rc : ∀ r < 24, rci r = ilv (rc r) := by decide

/-- The table of R177 holds what R174 gives for the rotation offset of each lane. -/
theorem rhoHalvesTable_eq : ∀ i : Fin 25, rhoHalvesTable[i] =
    if rhoOffset i % 2 = 0 then ⟨false, rhoOffset i / 2, rhoOffset i / 2⟩
    else ⟨true, (rhoOffset i + 1) / 2, (rhoOffset i - 1) / 2⟩ := by decide

/-- Settles O47: the two tables by evaluation, round by round and lane by lane. -/
theorem interleavedTablesAreDerived : Obligations.InterleavedTablesAreDerived :=
  ⟨rci_eq_ilv_rc, rhoHalvesTable_eq⟩

end Sys2Proof.Machine
end

/-! # The round half by half (43_interleave.md R178) -/
section

namespace Sys2Proof.Machine

variable (a : Lanes)

/-! ### theta half by half (R178) -/

/-- A rotation by 1 makes the odd half, rotated by 1, the even one (R174). -/
theorem ilvEven_rotl_one (l : Lane) : ilvEven (rotl l 1) = rotl (ilvOdd l) 1 := by
  rw [← ilv_fst, ilv_rotl_odd l 0]

/-- A rotation by 1 makes the even half, as it is, the odd one (R174). -/
theorem ilvOdd_rotl_one (l : Lane) : ilvOdd (rotl l 1) = ilvEven l := by
  rw [← ilv_snd, ilv_rotl_odd l 0]
  rfl

/-- The XOR of the five halves of column x (R178). -/
def halfParity (h : HalfLanes) (x : Nat) : Half :=
  h[idx x 0] ^^^ h[idx x 1] ^^^ h[idx x 2] ^^^ h[idx x 3] ^^^ h[idx x 4]

/-- The column of a position is taken modulo 5. -/
@[simp] theorem idx_mod_left (x y : Nat) : idx (x % 5) y = idx x y := idx_congr (Nat.mod_mod x 5) rfl

/-- D of an even half takes the odd parity rotated by 1 (R178). -/
theorem getElem_thetaHalves_even (h : Halves) (i : Nat) (hi : i < 25) :
    (thetaHalves h).even[i] = h.even[i] ^^^ (rotl (halfParity h.odd (i + 1)) 1 ^^^ halfParity h.even (i + 4)) := by
  simp only [thetaHalves, Vector.getElem_ofFn, Fin.getElem_fin, Fin.val_ofNat, Fin.val_add]
  simp [halfParity]

/-- D of an odd half takes the even parity as it is (R178). -/
theorem getElem_thetaHalves_odd (h : Halves) (i : Nat) (hi : i < 25) :
    (thetaHalves h).odd[i] = h.odd[i] ^^^ (halfParity h.even (i + 1) ^^^ halfParity h.odd (i + 4)) := by
  simp only [thetaHalves, Vector.getElem_ofFn, Fin.getElem_fin, Fin.val_ofNat, Fin.val_add]
  simp [halfParity]

/-- theta of a lane, from the parities of the two neighbouring columns. -/
theorem getElem_theta (i : Nat) (hi : i < 25) :
    (theta a)[i] = a[i] ^^^ (rotl (columnParity a (i + 1)) 1 ^^^ columnParity a (i + 4)) := by
  simp [theta, getElem_thetaD]

/-- The even half of a column parity is the parity of the even halves. -/
theorem ilvEven_columnParity (x : Nat) : ilvEven (columnParity a x) = halfParity (halvesOf a).even x := by
  simp [columnParity, halfParity, getElem_halvesOf_even]

/-- The odd half of a column parity is the parity of the odd halves. -/
theorem ilvOdd_columnParity (x : Nat) : ilvOdd (columnParity a x) = halfParity (halvesOf a).odd x := by
  simp [columnParity, halfParity, getElem_halvesOf_odd]

/-- Halves that are those of the lanes one by one. -/
theorem eq_halvesOf {h : Halves} (heven : ∀ (i : Nat) (hi : i < 25), h.even[i] = ilvEven a[i])
    (hodd : ∀ (i : Nat) (hi : i < 25), h.odd[i] = ilvOdd a[i]) : h = halvesOf a := by
  have he : h.even = (halvesOf a).even :=
    Vector.ext fun i hi => (heven i hi).trans (getElem_halvesOf_even a hi).symm
  have ho : h.odd = (halvesOf a).odd :=
    Vector.ext fun i hi => (hodd i hi).trans (getElem_halvesOf_odd a hi).symm
  cases h
  exact congr (congrArg Halves.mk he) ho

/-- theta on the halves of the lanes gives the halves of theta (R178). -/
theorem thetaHalves_halvesOf : thetaHalves (halvesOf a) = halvesOf (theta a) := by
  refine eq_halvesOf _ (fun i hi => ?_) fun i hi => ?_
  · rw [getElem_thetaHalves_even, getElem_theta, ilvEven_xor, ilvEven_xor, ilvEven_rotl_one, ilvOdd_columnParity,
      ilvEven_columnParity, getElem_halvesOf_even]
  · rw [getElem_thetaHalves_odd, getElem_theta, ilvOdd_xor, ilvOdd_xor, ilvOdd_rotl_one, ilvOdd_columnParity,
      ilvEven_columnParity, getElem_halvesOf_odd]

/-! ### rho, pi, chi and iota half by half (R177, R178) -/

/-- rho on the halves of the lanes gives the halves of rho: the table holds what R174 asks for (R177, R178). -/
theorem rhoHalves_halvesOf : rhoHalves (halvesOf a) = halvesOf (rho a) := by
  refine eq_halvesOf _ (fun i hi => ?_) fun i hi => ?_
  all_goals
    have htable := rhoHalvesTable_eq ⟨i, hi⟩
    rw [Fin.getElem_fin] at htable
    rw [getElem_rho]
  · rw [← ilv_fst, ilv_rotl, ilvRotl, rhoHalves, Vector.getElem_ofFn, Fin.getElem_fin, htable]
    split <;> simp [getElem_halvesOf_even, getElem_halvesOf_odd]
  · rw [← ilv_snd, ilv_rotl, ilvRotl, rhoHalves, Vector.getElem_ofFn, Fin.getElem_fin, htable]
    split <;> simp [getElem_halvesOf_even, getElem_halvesOf_odd]

/-- pi moves even halves as it moves their lanes (R178). -/
theorem pi_halvesOf_even : pi (halvesOf a).even = (halvesOf (pi a)).even := by
  ext i hi : 1
  simp [getElem_halvesOf_even]

/-- pi moves odd halves as it moves their lanes (R178). -/
theorem pi_halvesOf_odd : pi (halvesOf a).odd = (halvesOf (pi a)).odd := by
  ext i hi : 1
  simp [getElem_halvesOf_odd]

/-- A shape of the chi table is made of bitwise operations, so its even half is the shape of the even halves (R172). -/
theorem ilvEven_value (f : ChiForm) (l m n : Lane) :
    ilvEven (f.value l m n) = f.value (ilvEven l) (ilvEven m) (ilvEven n) := by
  cases f <;> simp [ChiForm.value]

/-- The odd half of a shape is the shape of the odd halves (R172). -/
theorem ilvOdd_value (f : ChiForm) (l m n : Lane) :
    ilvOdd (f.value l m n) = f.value (ilvOdd l) (ilvOdd m) (ilvOdd n) := by
  cases f <;> simp [ChiForm.value]

/-- chi of either build on the even halves (R178, R196). -/
theorem chiOf_halvesOf_even (c : Bool) : chiOf c (halvesOf a).even = (halvesOf (chiOf c a)).even := by
  ext i hi : 1
  cases c <;> simp [chiOf, getElem_halvesOf_even, ilvEven_value]

/-- chi of either build on the odd halves (R178, R196). -/
theorem chiOf_halvesOf_odd (c : Bool) : chiOf c (halvesOf a).odd = (halvesOf (chiOf c a)).odd := by
  ext i hi : 1
  cases c <;> simp [chiOf, getElem_halvesOf_odd, ilvOdd_value]

/-- iota on the halves of the lanes gives the halves of iota: the table holds the interleaved constants (R176, R178). -/
theorem iotaHalves_halvesOf {r : Nat} (hr : r < 24) : iotaHalves (halvesOf a) r = halvesOf (iota a r) := by
  have hrci := rci_eq_ilv_rc r hr
  have h0 : ∀ (i : Nat) (hi : i < 25), ((⟨i, hi⟩ : Fin 25) = 0) = (i = 0) := fun i hi => propext Fin.mk_eq_zero
  refine eq_halvesOf _ (fun i hi => ?_) fun i hi => ?_
  · rw [iotaHalves, Vector.getElem_ofFn, iota, getElem_xorLane0, hrci]
    simp only [h0, Fin.getElem_fin, getElem_halvesOf_even]
    split <;> simp
  · rw [iotaHalves, Vector.getElem_ofFn, iota, getElem_xorLane0, hrci]
    simp only [h0, Fin.getElem_fin, getElem_halvesOf_odd]
    split <;> simp

/-- One round on stored lanes, interleaved or not, is the round of the build on the lanes (R178). -/
theorem rawRound_store (p : BuildParams) {r : Nat} (hr : r < 24) :
    rawRound p r (store p.interleave a) =
      store p.interleave (iota (chiOf p.complement (pi (rho (theta a)))) r) := by
  cases hp : p.interleave
  case false => rfl
  case true =>
    simp only [store, rawRound, if_true, splitHalves_joinHalves, thetaHalves_halvesOf, rhoHalves_halvesOf,
      pi_halvesOf_even, pi_halvesOf_odd, chiOf_halvesOf_even, chiOf_halvesOf_odd]
    rw [← iotaHalves_halvesOf _ hr]

end Sys2Proof.Machine
end

/-! # The round on masked lanes (44_complement.md R195 to R198) -/
section

namespace Sys2Proof.Machine

/-! ### theta, rho and pi are linear (R195) -/

/-- The lanes of two states XORed one by one (R195). -/
def xorLanewise (a b : Lanes) : Lanes := Vector.ofFn fun i : Fin 25 => a[i] ^^^ b[i]

variable (a b : Lanes)

@[simp] theorem getElem_xorLanewise (i : Nat) (hi : i < 25) : (xorLanewise a b)[i] = a[i] ^^^ b[i] := by
  simp [xorLanewise]

/-- Rotation is linear. -/
theorem rotl_xor {w : Nat} (v u : BitVec w) (k : Nat) : rotl (v ^^^ u) k = rotl v k ^^^ rotl u k := by
  ext j hj
  simp [getElem_rotl]

/-- The parities of a XOR are the XOR of the parities. -/
theorem columnParity_xorLanewise (x : Nat) :
    columnParity (xorLanewise a b) x = columnParity a x ^^^ columnParity b x := by
  simp only [columnParity, Fin.getElem_fin, getElem_xorLanewise]
  ac_rfl

/-- theta is linear (R195). -/
theorem theta_xorLanewise : theta (xorLanewise a b) = xorLanewise (theta a) (theta b) := by
  ext i hi : 1
  rw [getElem_theta, getElem_xorLanewise, getElem_xorLanewise, columnParity_xorLanewise, columnParity_xorLanewise,
    rotl_xor, getElem_theta, getElem_theta]
  ac_rfl

/-- rho is linear (R195). -/
theorem rho_xorLanewise : rho (xorLanewise a b) = xorLanewise (rho a) (rho b) := by
  ext i hi : 1
  simp [rotl_xor]

/-- pi is linear (R195). -/
theorem pi_xorLanewise : pi (xorLanewise a b) = xorLanewise (pi a) (pi b) := by
  ext i hi : 1
  simp

/-! ### Masks through the round (R195 to R198) -/

/-- A masked state is the state XORed with the mask of the zero state. -/
theorem maskLanes_eq_xorLanewise (set : List Nat) : maskLanes set a = xorLanewise a (maskLanes set zeroLanes) := by
  ext i hi : 1
  simp

/-- The mask of S becomes that of M_in before chi (R195). -/
theorem pi_rho_theta_mask :
    pi (rho (theta (maskLanes complementSet zeroLanes))) = maskLanes chiInputSet zeroLanes := by decide

/-- theta, rho and pi take the mask of S to that of M_in (R195). -/
theorem pi_rho_theta_maskLanes :
    pi (rho (theta (maskLanes complementSet a))) = maskLanes chiInputSet (pi (rho (theta a))) := by
  rw [maskLanes_eq_xorLanewise, theta_xorLanewise, rho_xorLanewise, pi_xorLanewise, pi_rho_theta_mask,
    ← maskLanes_eq_xorLanewise]

/-- A shape of the chi table on single bits. -/
def ChiForm.bit (f : ChiForm) (x y z : Bool) : Bool :=
  match f with
  | .orForm => x ^^ (y || z)
  | .notBOr => x ^^ (!y || z)
  | .andForm => x ^^ (y && z)
  | .orNotC => x ^^ (y || !z)
  | .notBAnd => x ^^ (!y && z)
  | .notAOr => !x ^^ (y || z)
  | .notAAnd => !x ^^ (y && z)

/-- The value of a shape is that of its bits. -/
theorem ChiForm.getElem_value {w : Nat} (f : ChiForm) (u v t : BitVec w) (j : Nat) (hj : j < w) :
    (f.value u v t)[j] = f.bit u[j] v[j] t[j] := by
  cases f <;> simp [ChiForm.value, ChiForm.bit]

/-- Every bit of a lane's mask says whether the lane is in the set (R191). -/
theorem getElem_maskOf {w : Nat} (set : List Nat) (i j : Nat) (hj : j < w) :
    (maskOf w set i)[j] = decide (i ∈ set) := by
  unfold maskOf
  split <;> simp_all

/-- The chi table on single bits: with the operands' bits flipped on M_in, the result's is flipped on S (R196). -/
theorem chiTable_bit : ∀ (i : Fin 25) (x y z : Bool),
    chiTable[i].bit (x ^^ decide (i.val ∈ chiInputSet))
        (y ^^ decide ((idx (i.val % 5 + 1) (i.val / 5)).val ∈ chiInputSet))
        (z ^^ decide ((idx (i.val % 5 + 2) (i.val / 5)).val ∈ chiInputSet)) =
      ((x ^^ (!y && z)) ^^ decide (i.val ∈ complementSet)) := by decide

/-- The chi table on lanes of any width: masked by M_in, they give chi masked by S (R196). -/
theorem chiComplement_mask {w : Nat} (a : Vector (BitVec w) 25) :
    chiComplement (Vector.ofFn fun i : Fin 25 => a[i] ^^^ maskOf w chiInputSet i) =
      Vector.ofFn fun i : Fin 25 => (chi a)[i] ^^^ maskOf w complementSet i := by
  ext i hi j hj
  simp only [getElem_chiComplement, ChiForm.getElem_value, Vector.getElem_ofFn, BitVec.getElem_xor, getElem_maskOf,
    Fin.getElem_fin, getElem_chi, BitVec.getElem_and, BitVec.getElem_not]
  exact chiTable_bit ⟨i, hi⟩ _ _ _

/-- iota is a XOR, so it commutes with a mask (R197). -/
theorem iota_maskLanes (set : List Nat) (r : Nat) : iota (maskLanes set a) r = maskLanes set (iota a r) := by
  ext i hi : 1
  rw [iota, iota, getElem_xorLane0, getElem_maskLanes, getElem_maskLanes, getElem_xorLane0]
  split
  · ac_rfl
  · rfl

/-- The mask of the complement is that of S. -/
theorem xorMask_true : xorMask true a = maskLanes complementSet a := rfl

/-- Without the complement no lane is masked (R32). -/
theorem xorMask_false : xorMask false a = a := by
  ext i hi : 1
  simp [complementMask]

/-- The round of a build on masked lanes gives the masked lanes of the logical round (R197, R198). -/
theorem round_xorMask (c : Bool) (r : Nat) :
    iota (chiOf c (pi (rho (theta (xorMask c a))))) r = xorMask c (keccakRound a r) := by
  cases c
  case false => rw [xorMask_false, xorMask_false]; rfl
  case true =>
    have hchi := chiComplement_mask (pi (rho (theta a)))
    rw [xorMask_true, pi_rho_theta_maskLanes, chiOf, if_pos rfl, keccakRound, xorMask_true, ← iota_maskLanes]
    exact congrArg (iota · r) hchi

/-- Settles O51: the interleaved storage drops out of the round, and the masks come back to where they were. -/
theorem rawRoundIsTheRound : Obligations.RawRoundIsTheRound := by
  intro p a r hr
  rw [enc, rawRound_store _ p hr, round_xorMask, enc]

end Sys2Proof.Machine
end

/-! # Every command on the raw form (43_interleave.md R179, R180, 44_complement.md R192 to R194, R200) -/
section

namespace Sys2Proof.Machine

variable (a : Lanes) (p : BuildParams)

/-! ### XOR into the raw lanes (R172, R179, R193) -/

/-- Values XORed into stored lanes are XORed into the lanes, for interleaving commutes with XOR (R172, R179). -/
theorem xorEach_store (interleave : Bool) (v : Fin 25 → Lane) :
    (store interleave a).xorEach v = store interleave (xorLanewise a (Vector.ofFn v)) := by
  cases interleave
  case false =>
    refine congrArg RawLanes.whole (Vector.ext fun i hi => ?_)
    rw [getElem_xorLanewise, Vector.getElem_ofFn, Vector.getElem_ofFn, Fin.getElem_fin]
  case true =>
    rw [store, store, if_pos rfl, if_pos rfl, RawLanes.xorEach, splitHalves_joinHalves]
    refine congrArg (fun h => RawLanes.halves (joinHalves h)) (eq_halvesOf _ (fun i hi => ?_) fun i hi => ?_)
    · rw [Vector.getElem_ofFn, Fin.getElem_fin, getElem_halvesOf_even, getElem_xorLanewise, Vector.getElem_ofFn,
        ilvEven_xor]
    · rw [Vector.getElem_ofFn, Fin.getElem_fin, getElem_halvesOf_odd, getElem_xorLanewise, Vector.getElem_ofFn,
        ilvOdd_xor]

/-- The masks commute with XOR (R193). -/
theorem xorMask_xorLanewise (complement : Bool) (b : Lanes) :
    xorMask complement (xorLanewise a b) = xorLanewise (xorMask complement a) b := by
  ext i hi : 1
  simp only [getElem_xorLanewise, getElem_xorMask]
  ac_rfl

/-- Values XORed into the raw lanes are XORed into the logical ones, for the masks are XORed in too (R193). -/
theorem xorEach_enc (v : Fin 25 → Lane) : (enc p a).xorEach v = enc p (xorLanewise a (Vector.ofFn v)) := by
  rw [enc, enc, xorEach_store, xorMask_xorLanewise]

/-! ### XORB and XORL (R141, R142, R179, R193) -/

/-- `LE64` one byte at a time: the first byte and the bytes after it share no bit (R13). -/
theorem le64_cons (d : Byte) (ds : List Byte) : le64 (d :: ds) = d.setWidth 64 ^^^ (le64 ds <<< 8) := by
  rw [le64]
  ext j hj
  by_cases hlow : j < 8
  · simp [hlow]
  · simp [hlow, BitVec.getLsbD_of_ge d j (Nat.le_of_not_lt hlow)]

/-- The loop of XORB XORs in the `LE64` of its bytes, moved to byte `off` (R141). -/
theorem xorBytes_eq (v : Lane) (off : Nat) (data : List Byte) :
    xorBytes v off data = v ^^^ (le64 data <<< (8 * off)) := by
  induction data generalizing v off with
  | nil => simp [xorBytes, le64]
  | cons d ds ih =>
    have hshift : le64 ds <<< 8 <<< (8 * off) = le64 ds <<< (8 * (off + 1)) := by
      rw [← BitVec.shiftLeft_add, Nat.mul_succ, Nat.add_comm]
    rw [xorBytes, ih, le64_cons, BitVec.shiftLeft_xor_distrib, hshift, BitVec.xor_assoc]

/-- XORB on the raw form of the lanes (R179, R193). -/
theorem rawXorBytesInLane_enc (lane off : Nat) (data : List Byte) :
    rawXorBytesInLane lane off data (enc p a) = enc p (xorBytesInLane a lane off data) := by
  rw [rawXorBytesInLane, xorEach_enc]
  refine congrArg (enc p) (Vector.ext fun i hi => ?_)
  rw [xorBytesInLane, getElem_setLane, xorBytes_eq, getElem_xorLanewise, Vector.getElem_ofFn]
  split
  next hl => rw [← hl, laneAt_of_lt a hi]
  next => exact BitVec.xor_zero

/-- XORL on the raw form of the lanes (R179, R193). -/
theorem rawXorLanes_enc (n : Nat) (data : List Byte) :
    rawXorLanes n data (enc p a) = enc p (xorLanes a n data) := by
  rw [rawXorLanes, xorEach_enc]
  refine congrArg (enc p) (Vector.ext fun i hi => ?_)
  rw [getElem_xorLanes, getElem_xorLanewise, Vector.getElem_ofFn]
  split
  next => rfl
  next => exact BitVec.xor_zero

/-! ### CBIT (R143, R179) -/

/-- What state bit `q` is in lane `i` (R52). -/
def bitMask (q i : Nat) : Lane := if i = q / 64 then BitVec.twoPow 64 (q % 64) else 0

/-- Flipping a state bit is XORing it in. -/
theorem complementBit_eq_xorLanewise (q : Nat) :
    complementBit a q = xorLanewise a (Vector.ofFn fun i : Fin 25 => bitMask q i) := by
  ext i hi : 1
  rw [complementBit_eq, getElem_setLane, getElem_xorLanewise, Vector.getElem_ofFn, bitMask]
  split
  next hl => rw [← hl, laneAt_of_lt a hi]
  next => exact BitVec.xor_zero.symm

/-- An even bit of a lane is a bit of its even half alone (R170). -/
theorem ilvEven_twoPow (b : Nat) :
    ilvEven (BitVec.twoPow 64 b) = if b % 2 = 0 then BitVec.twoPow 32 (b / 2) else 0 := by
  ext j hj
  rw [getElem_ilvEven, BitVec.getLsbD_twoPow]
  split
  next heven =>
    rw [BitVec.getElem_twoPow, Bool.eq_iff_iff]
    simp only [Bool.and_eq_true, decide_eq_true_eq]
    omega
  next hodd =>
    have hne : b ≠ 2 * j := by omega
    simp [hne]

/-- An odd bit of a lane is a bit of its odd half alone (R170). -/
theorem ilvOdd_twoPow (b : Nat) :
    ilvOdd (BitVec.twoPow 64 b) = if b % 2 = 0 then 0 else BitVec.twoPow 32 (b / 2) := by
  ext j hj
  rw [getElem_ilvOdd, BitVec.getLsbD_twoPow]
  split
  next heven =>
    have hne : b ≠ 2 * j + 1 := by omega
    simp [hne]
  next hodd =>
    rw [BitVec.getElem_twoPow, Bool.eq_iff_iff]
    simp only [Bool.and_eq_true, decide_eq_true_eq]
    omega

/-- State bit `q` in the even half of lane `i`: it is there when that half is the one of CBIT's rule (R179). -/
theorem ilvEven_bitMask (q i : Nat) : ilvEven (bitMask q i) =
    if 2 * i = 2 * (q / 64) + q % 64 % 2 then BitVec.twoPow 32 (q % 64 / 2) else 0 := by
  rw [bitMask]
  split
  next hl =>
    rw [ilvEven_twoPow]
    exact if_congr (by omega) rfl rfl
  next hl =>
    rw [if_neg (by omega)]
    rfl

/-- State bit `q` in the odd half of lane `i` (R179). -/
theorem ilvOdd_bitMask (q i : Nat) : ilvOdd (bitMask q i) =
    if 2 * i + 1 = 2 * (q / 64) + q % 64 % 2 then BitVec.twoPow 32 (q % 64 / 2) else 0 := by
  rw [bitMask]
  split
  next hl =>
    rw [ilvOdd_twoPow, ← ite_not]
    exact if_congr (by omega) rfl rfl
  next hl =>
    rw [if_neg (by omega)]
    rfl

/-- The even half of lane i is `H[2i]` (R175). -/
theorem getElem_splitHalves_even (h : HalfArray) {i : Nat} (hi : i < 25) : (splitHalves h).even[i] = h[2 * i] := by
  simp [splitHalves]

/-- The odd half of lane i is `H[2i+1]` (R175). -/
theorem getElem_splitHalves_odd (h : HalfArray) {i : Nat} (hi : i < 25) : (splitHalves h).odd[i] = h[2 * i + 1] := by
  simp [splitHalves]

/-- Raw arrays are equal when they agree at the even and the odd half of each lane (R175). -/
theorem halfArray_ext {g h : HalfArray} (heven : ∀ (i : Nat) (hi : i < 25), g[2 * i] = h[2 * i])
    (hodd : ∀ (i : Nat) (hi : i < 25), g[2 * i + 1] = h[2 * i + 1]) : g = h := by
  ext k hk : 1
  obtain ⟨i, rfl | rfl⟩ := Nat.even_or_odd' k
  · exact heven i (by omega)
  · exact hodd i (by omega)

/-- CBIT on a raw array, the flipped bit by its name (R179). -/
theorem rawComplementBit_halves (q : Nat) (h : HalfArray) :
    rawComplementBit q (.halves h) = .halves (Vector.ofFn fun j : Fin 50 =>
      if j.val = 2 * (q / 64) + q % 64 % 2 then h[j] ^^^ BitVec.twoPow 32 (q % 64 / 2) else h[j]) := rfl

/-- CBIT on either raw form XORs the bit in: on halves it picks the half the bit lies in (R179). -/
theorem rawComplementBit_eq_xorEach (q : Nat) (r : RawLanes) :
    rawComplementBit q r = r.xorEach fun i => bitMask q i := by
  cases r with
  | whole v =>
    refine congrArg RawLanes.whole ((complementBit_eq_xorLanewise v q).trans (Vector.ext fun i hi => ?_))
    rw [getElem_xorLanewise, Vector.getElem_ofFn, Vector.getElem_ofFn, Fin.getElem_fin]
  | halves h =>
    rw [rawComplementBit_halves, RawLanes.xorEach]
    refine congrArg RawLanes.halves (halfArray_ext (fun i hi => ?_) fun i hi => ?_)
    · rw [joinHalves_even _ hi, Vector.getElem_ofFn, Vector.getElem_ofFn, Fin.getElem_fin, Fin.getElem_fin,
        getElem_splitHalves_even _ hi, ilvEven_bitMask]
      split
      next => rfl
      next => exact BitVec.xor_zero.symm
    · rw [joinHalves_odd _ hi, Vector.getElem_ofFn, Vector.getElem_ofFn, Fin.getElem_fin, Fin.getElem_fin,
        getElem_splitHalves_odd _ hi, ilvOdd_bitMask]
      split
      next => rfl
      next => exact BitVec.xor_zero.symm

/-- CBIT on the raw form of the lanes (R179, R193). -/
theorem rawComplementBit_enc (q : Nat) : rawComplementBit q (enc p a) = enc p (complementBit a q) := by
  rw [rawComplementBit_eq_xorEach, xorEach_enc, complementBit_eq_xorLanewise]

/-! ### SINIT, PERM and the commands whole (R179, R180, R200) -/

/-- SINIT leaves the raw form of the zero state (R179, R192). -/
theorem rawSinit_eq_enc : rawSinit p = enc p zeroLanes := by
  rw [rawSinit, enc]
  refine congrArg (store p.interleave) (Vector.ext fun i hi => ?_)
  rw [Vector.getElem_ofFn, getElem_xorMask, getElem_zeroLanes]
  exact BitVec.zero_xor.symm

/-- The rounds on the raw form, one after another (R198). -/
theorem rawRounds_enc {n : Nat} (hn : n ≤ 24) : rawRounds p (enc p a) n = enc p (keccakRounds a n) := by
  induction n with
  | zero => rfl
  | succ n ih => rw [rawRounds, ih (Nat.le_of_succ_le hn), rawRoundIsTheRound p _ n hn, keccakRounds]

/-- A whole permutation on the raw form is its 24 rounds. -/
theorem rawKeccakF_eq (r : RawLanes) : rawKeccakF p r = rawRounds p r 24 := by
  delta rawKeccakF
  rfl

/-- A whole permutation on the raw form of the lanes (R180, R200). -/
theorem rawKeccakF_enc : rawKeccakF p (enc p a) = enc p (keccakF a) := by
  rw [rawKeccakF_eq, rawRounds_enc a p (Nat.le_refl 24), keccakF]

/-- Settles O52: a command that writes A does so on the raw form as on the lanes, and one that reads A reads the lanes
back through `Dec`. -/
theorem everyCommandAgreesOnTheRawForm : Obligations.EveryCommandAgreesOnTheRawForm := by
  intro p i s _ hdout _
  cases i with
  | cinit => simp [rawCommand, effectOf, cinitEffect, hdout]
  | sinit => simp [rawCommand, effectOf, sinitEffect, rawSinit_eq_enc, hdout]
  | xorb => simp [rawCommand, effectOf, xorbEffect, rawXorBytesInLane_enc, hdout]
  | xorl => simp [rawCommand, effectOf, xorlEffect, rawXorLanes_enc, hdout]
  | cbit => simp [rawCommand, effectOf, cbitEffect, rawComplementBit_enc, hdout]
  | perm => simp [rawCommand, effectOf, permEffect, rawKeccakF_enc, hdout]
  | extb => simp [rawCommand, effectOf, extbEffect, dec_enc, hdout]
  | extl => simp [rawCommand, effectOf, extlEffect, dec_enc, hdout]
  | xpe => simp [rawCommand, effectOf, xpeEffect, rawXorLanes_enc, rawKeccakF_enc, dec_enc, hdout]
  | rdrc => simp [rawCommand, effectOf, rdrcEffect, hdout]
  | rdrho => simp [rawCommand, effectOf, rdrhoEffect, hdout]

end Sys2Proof.Machine
end

/-! # The masks step by step (44_complement.md R195, R196) -/
section

namespace Sys2Proof.Machine

/-- The lanes that carry an all-ones mask after theta, and still after rho (R195). -/
def thetaOutputSet : List Nat := [0, 1, 2, 3, 5, 10, 12, 13, 15, 17, 18, 23]

variable (a : Lanes)

/-- The mask of S becomes that of `thetaOutputSet` in theta (R195). -/
theorem theta_mask :
    theta (maskLanes complementSet zeroLanes) = maskLanes thetaOutputSet zeroLanes := by decide

/-- theta takes the mask of S to that of `thetaOutputSet` (R195). -/
theorem theta_maskLanes :
    theta (maskLanes complementSet a) = maskLanes thetaOutputSet (theta a) := by
  rw [maskLanes_eq_xorLanewise, theta_xorLanewise, theta_mask, ← maskLanes_eq_xorLanewise]

/-- A lane's mask has all its bits equal, so no rotation moves it. -/
theorem rotl_maskOf {w : Nat} (set : List Nat) (i k : Nat) : rotl (maskOf w set i) k = maskOf w set i := by
  ext j hj
  rw [getElem_rotl, getElem_maskOf, getElem_maskOf]

/-- rho leaves the mask of every lane set where it is (R195). -/
theorem rho_maskLanes (set : List Nat) : rho (maskLanes set a) = maskLanes set (rho a) := by
  ext i hi : 1
  rw [getElem_rho, getElem_maskLanes, rotl_xor, rotl_maskOf, getElem_maskLanes, getElem_rho]

/-- Settles O49: the steps are linear, so what each does to a mask is what it does to the mask of the zero state. -/
theorem masksMoveThroughTheLinearSteps : Obligations.MasksMoveThroughTheLinearSteps := by
  refine ⟨fun a b => ⟨theta_xorLanewise a b, rho_xorLanewise a b, pi_xorLanewise a b⟩,
    fun a => ⟨theta_maskLanes a, ?_, pi_rho_theta_maskLanes a⟩⟩
  rw [theta_maskLanes, rho_maskLanes]
  rfl

/-- Settles O50: the table holds bit by bit, so it holds on lanes of every width. -/
theorem complementedChiIsChi : Obligations.ComplementedChiIsChi :=
  fun _ a => chiComplement_mask a

end Sys2Proof.Machine
end

/-! # The check, the error entry and the halt (60_exceptions.md R212 to R217) -/
section

namespace Sys2Proof.Machine

variable {w : Word} {i : Instr} {init : Bool} {s : State}

/-! ### The check on the bits of a word (R212) -/

/-- The check of a word that does not decode is its decoding error (R82, R215). -/
theorem checkWord_of_decode_error {e : DecodeError} (hd : decode w = .error e) (init : Bool) :
    checkWord w init = decodeErrorCode e := by
  rw [checkWord, hd]

/-- R212 rejects the words of the five opcodes that have no command first. -/
theorem checkBits_of_illegal (hill : field w 0 4 ∈ [0x0, 0xC, 0xD, 0xE, 0xF]) :
    checkBits w init = .illegalOpcode := by
  have hop : field w 0 4 = 0x0 ∨ field w 0 4 ≥ 0xC := by
    simp only [List.mem_cons, List.not_mem_nil, or_false] at hill
    omega
  simp only [checkBits, if_pos hop]

/-- R212 rejects the words of a legal opcode with a reserved bit 1 next. -/
theorem checkBits_of_reserved (hlegal : field w 0 4 ∉ [0x0, 0xC, 0xD, 0xE, 0xF])
    (hres : w &&& reservedMask (field w 0 4) ≠ 0) : checkBits w init = .reservedBits := by
  have hlt : field w 0 4 < 2 ^ 4 := field_lt w 0 4
  have hop : ¬(field w 0 4 = 0x0 ∨ field w 0 4 ≥ 0xC) := by
    simp only [List.mem_cons, List.not_mem_nil, or_false] at hlegal
    omega
  simp only [checkBits, if_neg hop, if_pos hres]

/-- On the word of a well-formed command R212's check gives the command's own: the opcode selects the command's ranges, and
the fields give back its operands. -/
theorem checkBits_encode (h : i.WellFormed) : checkBits (encode i) init = check i init := by
  obtain ⟨hop, hres⟩ := fields_of_decode (decode_encode h)
  rw [← and_maskFrom_eq_zero_iff, ← reservedMask_eq] at hres
  simp only [checkBits, hop, hres]
  cases i with
  | cinit | sinit | perm => cases init <;> rfl
  | xorb | xorl | cbit | extb | extl | xpe | rdrc | rdrho =>
    simp only [Instr.WellFormed, Instr.wellFormed, Bool.and_eq_true, decide_eq_true_eq] at h
    simp (disch := omega) [tableRow, encode]
    -- What is left compares two chains of the same range tests on the operands.
    grind [check, rangeCheck, needsInit]

/-- The check of a word through its decoding is the one R212 writes out, in the order of R215. -/
theorem checkWord_eq_checkBits (w : Word) (init : Bool) : checkWord w init = checkBits w init := by
  cases hd : decode w with
  | ok i => rw [checkWord_of_decode hd, ← checkBits_encode (wellFormed_of_decode hd), encode_of_decode hd]
  | error e =>
    cases e with
    | illegalOpcode =>
      have hill := decode_eq_illegalOpcode_iff.mp hd
      exact (checkWord_of_decode_error hd init).trans (checkBits_of_illegal hill).symm
    | reservedBits =>
      obtain ⟨hlegal, hres⟩ := decode_eq_reservedBits_iff.mp hd
      exact (checkWord_of_decode_error hd init).trans (checkBits_of_reserved hlegal hres).symm

/-- No range error is NOT_INIT. -/
theorem rangeCheck_ne_notInit (i : Instr) : rangeCheck i ≠ .notInit := by
  cases i with
  | cinit | sinit | perm => simp [rangeCheck]
  | xorb | xorl | cbit | extb | extl | xpe | rdrc | rdrho =>
    rw [rangeCheck]
    split_ifs <;> simp

/-- A command that does not access A never raises NOT_INIT (R212). -/
theorem check_ne_notInit (hn : needsInit i = false) (init : Bool) : check i init ≠ .notInit := by
  rw [check, hn, Bool.false_and]
  split
  · simp
  · exact rangeCheck_ne_notInit i

/-- Settles O7: the two checks agree on the words that decode and on those that do not, and the four commands do not access
A. -/
theorem checkIsTheWrittenCheck : Obligations.CheckIsTheWrittenCheck :=
  ⟨checkWord_eq_checkBits, fun init _ =>
    ⟨check_ne_notInit rfl init, check_ne_notInit rfl init, check_ne_notInit rfl init, check_ne_notInit rfl init⟩⟩

/-! ### The error entry (R213, R216) -/

/-- A halted block is ready for nothing and gives nothing (R213, R214). -/
theorem State.ports_of_halt (hp : s.phase = .halt) (rst : Bool) :
    (s.ports rst).cmdReady = false ∧ (s.ports rst).dinReady = false ∧ (s.ports rst).dout = none := by
  simp [State.ports, hp]

/-- Settles O8: the step of an idle block runs the word offered, and a word that fails its check takes the error entry. -/
theorem errorEntryOfARejectedWord : Obligations.ErrorEntryOfARejectedWord := by
  intro s w ws hh hp hq hc
  have hstep := (step_of_idle_cons hh hp hq).trans (runWord_rejected (s := { s with cmdIn := ws }) hh hc)
  exact ⟨_, hstep, rfl, State.ports_of_halt rfl false⟩

/-- Settles O11: `exec` performs the command, and performing a command that fails its check is the error entry. -/
theorem rejectedCommandHasNoEffect : Obligations.RejectedCommandHasNoEffect :=
  fun i s hh hc => (exec_eq_perform i s).trans (perform_rejected hh hc)

/-! ### The halt (R214, R217) -/

/-- ERR = 1 halts the block, whatever its phase (R214). -/
theorem State.halted_of_err (he : s.err = true) : s.halted = true := by
  rw [State.halted, he, Bool.true_or]

/-- A halted block has no step (R214). -/
theorem step_halted (hh : s.halted = true) : step s = .fault .halted := by
  rw [step, stepByPhase, if_pos hh]

/-- No command has a meaning in a halted block (R214). -/
theorem exec_halted (i : Instr) (hh : s.halted = true) : exec i s = .fault .halted :=
  (exec_eq_perform i s).trans (perform_halted hh)

/-- No clock edge but reset changes a halted block (R214, R217). -/
theorem clock_of_halt {p : PortsIn} (hr : p.rst = false) (hp : s.phase = .halt) (advance : Bool) :
    clock p advance s = s := by
  simp [clock, hr, hp]

/-- A run from a block with ERR = 1 is not observed: such a block is never clean, and no command given to it has a step
(R214, R253). -/
theorem observe_of_err (he : s.err = true) (gs : List Given) : observe gs s = none := by
  cases gs with
  | nil => simp [observe, State.clean, he]
  | cons g gs =>
    have hstep : step (s.give g) = .fault .halted := step_halted (State.halted_of_err (s := s.give g) he)
    simp only [observe, hstep]

/-- Settles O9: ERR = 1 halts the block, and by the invariant its phase is HALT. -/
theorem haltedBlockIsStuck : Obligations.HaltedBlockIsStuck := by
  intro s hinv he
  have hh : s.halted = true := State.halted_of_err he
  have hp : s.phase = .halt := hinv.err_iff_halt.mp he
  obtain ⟨hcmd, hdin, hdout⟩ := State.ports_of_halt hp false
  exact ⟨step_halted hh, fun i => exec_halted i hh, fun p advance hr => clock_of_halt hr hp advance, hcmd, hdin, hdout,
    observe_of_err he⟩

end Sys2Proof.Machine
end

/-! # Reset (10_state.md R35, 70_reset_and_hazards.md R240 to R242)

What the block drives while rst = 1, what a clock edge does then, and what the block drives in the first cycle after. -/
section

namespace Sys2Proof.Machine

/-- While rst = 1 no channel is ready or valid, whatever the phase (R240). -/
theorem State.ports_of_rst (s : State) :
    (s.ports true).cmdReady = false ∧ (s.ports true).dinReady = false ∧ (s.ports true).dout = none := by
  simp [State.ports]

/-- An edge with rst = 1 is a reset edge (R240, R241). -/
theorem clock_of_rst {p : PortsIn} (hr : p.rst = true) (advance : Bool) (s : State) :
    clock p advance s = s.resetEdge := if_pos hr

/-- In an idle block without an error and with INIT = 0, cmd is ready, no other channel is ready or valid, and both status
ports are 0 (R29, R72). -/
theorem State.ports_of_idle {s : State} (hp : s.phase = .idle) (he : s.NoError) (hb : s.busy = false)
    (hi : s.init = false) : s.ports false = ⟨true, false, none, 0, 0⟩ := by
  obtain ⟨herr, hcode, hcmd⟩ := he
  have hstatus : s.statusWord = 0 := by
    rw [State.statusWord, hcode, herr, hi, hb]
    decide
  simp [State.ports, hp, herr, hcmd, hstatus]

/-- No free value reaches the ports in the first cycle after a reset edge: they are those of an idle block (R242). -/
theorem State.ports_resetEdge (s : State) : s.resetEdge.ports false = ⟨true, false, none, 0, 0⟩ :=
  State.ports_of_idle rfl ⟨rfl, rfl, rfl⟩ rfl rfl

/-- Settles O53: the registers of R35 are constants at `State.reset`, and a reset edge takes them from there. -/
theorem resetValues : Obligations.ResetValues := by
  refine ⟨⟨rfl, rfl, rfl, rfl, rfl, rfl, rfl, rfl⟩, fun p advance s hr => ?_⟩
  rw [clock_of_rst hr, State.ports_resetEdge]
  exact ⟨⟨rfl, rfl, rfl, rfl, rfl, rfl, rfl, rfl⟩, s.ports_of_rst, rfl, rfl, rfl⟩

end Sys2Proof.Machine
end
